-- ==== Sys2Proof/Word.lean ====
section
/-!
DEFINITION. The word types of `pcg32_core`.
Every value of the block is an unsigned bit vector with bit 0 least significant (R9); sums, products and
negations of `BitVec` reduce modulo 2^N, which is the arithmetic of R10.
-/

namespace Sys2Proof

/-- `STATE`, `INC` and the command operands (R7: `W_STATE`, `W_DELTA`). -/
abbrev Word64 := BitVec 64

/-- An output value and a bound (R7: `W_OUT`, `W_BOUND`). -/
abbrev Word32 := BitVec 32

/-- The field `OP` of a command word (R60). -/
abbrev Opcode := BitVec 3

/-- The command word `CW = (OP, B, A)` (R60). -/
abbrev CommandWord := BitVec 131

end Sys2Proof
end

