-- ==== Sys2Proof/Syntax.lean ====
section
/-!
DEFINITION. The commands of the block (R62), one constructor per row of the opcode table, and the lines of its
assembler (R68, R71).
-/

namespace Sys2Proof

/-- R62: the eight rows of the opcode map, each with the operands its format carries (R61, R64).
Ignored fields are no part of an instruction (R66). -/
inductive Instr where
  /-- OP 0, format N: default construction (R80). -/
  | init
  /-- OP 1, format AB: `initstate = A`, `sequence = B` (R82). -/
  | seed (initstate sequence : Word64)
  /-- OP 2, format N: next raw output (R96). -/
  | random
  /-- OP 3, format A32: `bound = A[31:0]` (R112). -/
  | bounded (bound : Word32)
  /-- OP 4, format A32: `bound = A[31:0]` (R116). -/
  | fastBounded (bound : Word32)
  /-- OP 5, format A64: `delta = A` (R135). -/
  | advance (delta : Word64)
  /-- OP 6, format A64: `delta = A` (R137). -/
  | retreat (delta : Word64)
  /-- OP 7, format N: the reserved code, answered with an error response (R151). -/
  | reserved
deriving DecidableEq, Repr

/-- What a line of assembly may name: the seven commands (R68) and the four pseudo-commands (R71). -/
inductive AsmName where
  | init | seed | random | bounded | fastBounded | advance | retreat
  | new | skip | discard | back
deriving DecidableEq, Repr

/-- A line of assembly after its text is read: a name and its numeric operands, unsigned and of any size (R68). -/
structure AsmLine where
  name : AsmName
  operands : List Nat
deriving DecidableEq, Repr

/-- Why the assembler refuses a line (R69, R70). -/
inductive AsmError where
  /-- The first word of the line is no mnemonic or pseudo-command. -/
  | unknownName
  /-- An operand is no decimal or `0x` hexadecimal numeral. -/
  | badNumeral
  /-- An operand is missing or one too many stands there (R69). -/
  | operandCount
  /-- An operand lies outside its range; the assembler never truncates (R69). -/
  | operandRange
deriving DecidableEq, Repr

end Sys2Proof
end

