-- ==== Sys2Proof/WellFormed.lean ====
section
/-!
DEFINITION. When an assembly line and an instruction are well-formed.
The operand types of `Instr` hold exactly the values its fields admit, and no value of `A` or `B` makes a word
illegal (R63), so the checks bear on the assembler's lines (R69) and on what has an assembly form (R70).
-/

namespace Sys2Proof

/-- The exclusive upper limits of the operands a name takes, in order (R69, R71):
`bound` lies in `0 .. 2^32-1`; `initstate`, `sequence`, `delta` and the counts of SKIP and BACK in `0 .. 2^64-1`. -/
def AsmName.operandLimits : AsmName → List Nat
  | .init | .random | .new | .discard => []
  | .seed => [2 ^ 64, 2 ^ 64]
  | .bounded | .fastBounded => [2 ^ 32]
  | .advance | .retreat | .skip | .back => [2 ^ 64]

/-- R69: no operand is missing and none is extra. -/
def AsmLine.countOk (l : AsmLine) : Bool :=
  l.operands.length == l.name.operandLimits.length

/-- R69: every operand lies in its range. -/
def AsmLine.rangeOk (l : AsmLine) : Bool :=
  (l.operands.zip l.name.operandLimits).all fun p => decide (p.1 < p.2)

/-- R69: what the assembler accepts. -/
def AsmLine.wellFormed (l : AsmLine) : Bool :=
  l.countOk && l.rangeOk

/-- R70: the reserved opcode has no mnemonic and cannot be assembled; every other instruction can. -/
def Instr.assemblable : Instr → Bool
  | .init => true
  | .seed _ _ => true
  | .random => true
  | .bounded _ => true
  | .fastBounded _ => true
  | .advance _ => true
  | .retreat _ => true
  | .reserved => false

end Sys2Proof
end

