-- ==== Sys2Proof/Decode.lean ====
section
/-!
DEFINITION. The decoder, total on all 2^131 command words (R63), and the encoder (R60, R62, R64, R70).
-/

namespace Sys2Proof

/-- R60: `CW = (OP, B, A)`, with `OP` in bits 130:128, `B` in 127:64 and `A` in 63:0. -/
def commandWord (op : Opcode) (b a : Word64) : CommandWord :=
  op ++ b ++ a

/-- R60: `OP = CW[130:128]`. -/
def opField (cw : CommandWord) : Opcode := cw.extractLsb' 128 3

/-- R60: `B = CW[127:64]`. -/
def bField (cw : CommandWord) : Word64 := cw.extractLsb' 64 64

/-- R60: `A = CW[63:0]`. -/
def aField (cw : CommandWord) : Word64 := cw.extractLsb' 0 64

/-- R64: `bound = A[31:0]`; bits 63:32 of `A` are ignored (R46, R61). -/
def boundField (a : Word64) : Word32 := a.extractLsb' 0 32

/-- R62, R64: the value of `OP` alone selects the command; its operands come from `A` and `B`. -/
def decodeFields (op : Opcode) (a b : Word64) : Instr :=
  match op.toNat with
  | 0 => .init
  | 1 => .seed a b
  | 2 => .random
  | 3 => .bounded (boundField a)
  | 4 => .fastBounded (boundField a)
  | 5 => .advance a
  | 6 => .retreat a
  | _ => .reserved -- 7, the only value of three bits that is left

/-- R63: decoding is total. -/
def decode (cw : CommandWord) : Instr :=
  decodeFields (opField cw) (aField cw) (bField cw)

/-- R62: the code of each row. -/
def opcodeOf : Instr → Opcode
  | .init => 0#3
  | .seed _ _ => 1#3
  | .random => 2#3
  | .bounded _ => 3#3
  | .fastBounded _ => 4#3
  | .advance _ => 5#3
  | .retreat _ => 6#3
  | .reserved => 7#3

/-- R70: what stands in `A`: the first operand, a bound zero-extended to 64 bits, an ignored field zero. -/
def aOperand : Instr → Word64
  | .init => 0#64
  | .seed initstate _ => initstate
  | .random => 0#64
  | .bounded bound => bound.setWidth 64
  | .fastBounded bound => bound.setWidth 64
  | .advance delta => delta
  | .retreat delta => delta
  | .reserved => 0#64

/-- R70: what stands in `B`: the second operand of SEED, otherwise zero. -/
def bOperand : Instr → Word64
  | .init => 0#64
  | .seed _ sequence => sequence
  | .random => 0#64
  | .bounded _ => 0#64
  | .fastBounded _ => 0#64
  | .advance _ => 0#64
  | .retreat _ => 0#64
  | .reserved => 0#64

/-- R60, R70: the command word of an instruction, every ignored field zero. -/
def encode (i : Instr) : CommandWord :=
  commandWord (opcodeOf i) (bOperand i) (aOperand i)

/-- Why a number of bits is no command word. -/
inductive DecodeError where
  /-- A bit above bit 130 is set: every command word has 131 bits (R60). -/
  | longerThan131Bits
deriving DecidableEq, Repr

/-- R60: a number as a command word, refused by name where it has more than 131 bits. -/
def commandWordOfNat (n : Nat) : Except DecodeError CommandWord :=
  if n < 2 ^ 131 then .ok (BitVec.ofNat 131 n) else .error .longerThan131Bits

/-- The decoder on an instruction whose bits are numbered as spec/opcode_table.json numbers them:
the table's bit `k` is bit `k` of the command word (R60); there is no byte order (R46). -/
def decodeTableWord (nbits w : Nat) : Option Instr :=
  match commandWordOfNat (w % 2 ^ nbits) with
  | .ok cw => some (decode cw)
  | .error _ => none

end Sys2Proof
end

