-- ==== Sys2Proof/Config.lean ====
section
/-!
DEFINITION. What an implementation fixes (R8) and the free values (93_implementation_defined.md U1 to U4).
Every constant here is opaque: no proof can see a value of it, so a claim about the model holds for every one.
-/

namespace Sys2Proof

/-- R8, R174, U1: `LAT(cmd, STATE, INC) - 1`.
No law but that it is a natural number, so `LAT >= 1` and finite; it sees the command without its ignored fields,
which have no effect on any state (R66, log 3). -/
opaque Config.extraLatency (cmd : Instr) (state inc : Word64) : Nat

/-- R8, R174: the number of rising edges from the accepting edge to the completing edge; at least 1 and finite. -/
def Config.latency (cmd : Instr) (state inc : Word64) : Nat :=
  Config.extraLatency cmd state inc + 1

/-- R8 `PERM_STAGES`: register stages of the output permutation pipeline, at least 0 (informative, U10). -/
opaque Config.permStages : Nat

/-- The choice behind `Config.permStagesBetween`. -/
opaque Config.permBetweenChoice : Nat

/-- R98: how many of the register stages stand between the two logical stages of the pipeline; R98 lets them be placed
between and after (log 10). -/
def Config.permStagesBetween : Nat := min Config.permBetweenChoice Config.permStages

/-- R98: the register stages after the second logical stage: the others. -/
def Config.permStagesAfter : Nat := Config.permStages - Config.permStagesBetween

/-- R8 `MOD_LAT`: cycles of the 32-bit modulo unit, at least 0 (informative, U10). -/
opaque Config.modLat : Nat

/-- The choice behind `Config.jumpBitsPerCycle`, one of 64. -/
opaque Config.jumpBitsChoice : Fin 64

/-- R8 `JUMP_BITS_PER_CYCLE`: 1 to 64 (informative, U10). -/
def Config.jumpBitsPerCycle : Nat := Config.jumpBitsChoice.val + 1

/-- R133, D22, U10: whether the jump unit runs a fixed 64 iterations instead of stopping when no delta bit is left. -/
opaque Config.jumpRunsAll64 : Bool

/-- The pace of the bounded-sampling unit, which no rule fixes (R123, R174, log 19): whether an iteration of the unit whose
draw has come through the pipeline ends at the edge counted `cycle`. -/
opaque Config.drawEnds (cycle : Nat) : Bool

/-- The places where the spec lets any value stand (U2, U3, U4). -/
inductive FreeSite where
  /-- `state_o` in EXEC or while `rst = 1` (U2). -/
  | stateO
  /-- `inc_o` in EXEC or while `rst = 1` (U2). -/
  | incO
  /-- `rsp_data` outside RESP or while `rst = 1` (U3). -/
  | rspDataO
  /-- `rsp_err` outside RESP or while `rst = 1` (U3). -/
  | rspErrO
  /-- The jump unit's registers outside a jump, after an EXEC edge (R29, U4). -/
  | accMult | accPlus | curMult | curPlus | deltaRem
  /-- The bounded-sampling unit's registers outside a bounded command and before they are latched in one, after an EXEC
  edge (R30, U4). -/
  | bnd | thr | prod
  /-- Register stage `k` of the permutation pipeline outside a draw, after an EXEC edge (R31, U4). -/
  | pipe (k : Nat)
deriving DecidableEq, Repr

/-- A FREE VALUE: whatever the hardware holds at `site` in clock cycle `cycle`.
It may change every cycle (U2). A narrower site takes the low bits. -/
opaque Config.freeWord (site : FreeSite) (cycle : Nat) : Word64

end Sys2Proof
end

