-- ==== Sys2Proof/Machine/Params.lean ====
section
/-!
DEFINITION. The fixed parameters of the block, settled by the source and used exactly (R7).
-/

namespace Sys2Proof.Machine

/-- `MULT` (R7, R90). -/
def MULT : Word64 := 0x5851f42d4c957f2d#64

/-- `DEFAULT_STATE` (R7, R80). -/
def DEFAULT_STATE : Word64 := 0x853c49e6748fea9b#64

/-- `DEFAULT_INC` (R7, R80). -/
def DEFAULT_INC : Word64 := 0xda3e39cb94b95bdb#64

/-- `XS_SHIFT1` (R7, R92). -/
def XS_SHIFT1 : Nat := 18

/-- `XS_SHIFT2` (R7, R92). -/
def XS_SHIFT2 : Nat := 27

/-- `ROT_SHIFT` (R7, R92). -/
def ROT_SHIFT : Nat := 59

/-- The most draws a bounded command makes (R122): one full period of the LCG (R91). -/
def maxDraws : Nat := 2 ^ 64

end Sys2Proof.Machine
end

