-- ==== Sys2Proof/Machine/State.lean ====
section
/-!
DEFINITION. The state of the block (10_state.md), what the host drives and has taken, the reasons a step can stop,
and the state after reset (R37). The block has no memory, no program counter and no mode (R45, R24, R158).
-/

namespace Sys2Proof.Machine

/-- R26: the interface phase. -/
inductive Phase where
  /-- No command held; the block can accept one. -/
  | idle
  /-- One command accepted and being executed. -/
  | exec
  /-- The command's response is held and offered. -/
  | resp
deriving DecidableEq, Repr

/-- R33: the input ports other than `clk`, as sampled at one rising edge. -/
structure Pins where
  rst : Bool
  cmdValid : Bool
  cmdOp : Opcode
  cmdA : Word64
  cmdB : Word64
  rspReady : Bool
deriving DecidableEq, Repr

/-- Every input at 0: the host offers nothing and takes nothing. -/
def Pins.quiet : Pins :=
  { rst := false, cmdValid := false, cmdOp := 0, cmdA := 0, cmdB := 0, rspReady := false }

/-- R27: the value and the error bit of one response. -/
structure Response where
  data : Word32
  err : Bool
deriving DecidableEq, Repr

/-- R29: the five working registers of the jump-ahead multiplier unit. -/
structure JumpRegs where
  /-- `ACC_MULT` -/
  accMult : Word64
  /-- `ACC_PLUS` -/
  accPlus : Word64
  /-- `CUR_MULT` -/
  curMult : Word64
  /-- `CUR_PLUS` -/
  curPlus : Word64
  /-- `DELTA_REM` -/
  deltaRem : Word64
deriving DecidableEq, Repr

/-- R30: the working registers of the bounded-sampling unit. -/
structure SamplerRegs where
  /-- `BND` -/
  bnd : Word32
  /-- `THR` -/
  thr : Word32
  /-- `PROD` -/
  prod : Word64
deriving DecidableEq, Repr

/-- R98: what stage 1 of the permutation pipeline hands to stage 2, and what a register stage between them holds. -/
structure PermStage where
  xs : Word32
  /-- `rot = old[63:59]` -/
  rot : BitVec 5
deriving DecidableEq, Repr

/-- R31, R98: the register stages of the permutation pipeline, first stage first. -/
structure PermPipe where
  /-- Those between stage 1 and stage 2. -/
  between : List PermStage
  /-- Those after stage 2. -/
  after : List Word32
deriving DecidableEq, Repr

/-- How far the unit that executes a jump or a bounded command has come (R123, R133, R188; log 19). -/
inductive UnitRun where
  /-- The unit has not been set up from the latch yet, or no command runs. -/
  | notSetUp
  /-- Set up, with the number of iterations (of the jump loop, or draws) since; more may follow. -/
  | running (iterations : Nat)
  /-- A bounded command's unit has accepted its last draw, after so many; it draws no more. -/
  | finished (iterations : Nat)
deriving DecidableEq, Repr

/-- Everything the spec gives the block (R20 to R31), and what the host drives and has taken. -/
structure State where
  /-- `STATE` (R20). -/
  state : Word64
  /-- `INC`, the stream selector (R20, R21). -/
  inc : Word64
  /-- `PHASE` (R26). -/
  phase : Phase
  /-- `RSP_DATA` (R27). -/
  rspData : Word32
  /-- `RSP_ERR` (R27). -/
  rspErr : Bool
  /-- `CMD_OP` of the command latch (R28). -/
  cmdOp : Opcode
  /-- `CMD_A` of the command latch (R28). -/
  cmdA : Word64
  /-- `CMD_B` of the command latch (R28). -/
  cmdB : Word64
  /-- In EXEC, how many rising edges remain up to and with the `LAT`-th since acceptance (R174, R176). -/
  latLeft : Nat
  /-- The jump unit's working registers (R29). -/
  jumpRegs : JumpRegs
  /-- The bounded-sampling unit's working registers (R30). -/
  samplerRegs : SamplerRegs
  /-- The model's own: how far the running unit has come (log 19). -/
  unitRun : UnitRun
  /-- The registers of the output permutation pipeline, `PERM_STAGES` of them (R31, R98, log 10). -/
  pipe : PermPipe
  /-- The model's own: for how many edges the pipeline has been fed by the draw under way (log 20). -/
  drawEdges : Nat
  /-- The host's side: the inputs at the coming rising edges, next first; past its end every input is 0 (log 1). -/
  script : List Pins
  /-- The host's side: the responses it has taken, oldest first (R180, log 2). -/
  taken : List Response
  /-- The model's own: rising edges so far, which only index free values (log 5). -/
  cycle : Nat
deriving DecidableEq, Repr

/-- Why the machine stops. The block itself has no fault (R150). -/
inductive Fault where
  /-- Raised by BOUNDED and FAST_BOUNDED when 2^64 draws in a row are rejected.
  SAFE: R122 excludes it for every odd INC, so no run from reset raises it (log 11). -/
  | samplingNeverAccepts
deriving DecidableEq, Repr

/-- Why an instruction has no meaning. -/
inductive Refusal where
  /-- Raised by `exec` alone, for an instruction with no meaning in the model yet. SAFE. No instruction of this
  model is left so. -/
  | notModelled (mnemonic : String)
deriving DecidableEq, Repr

/-- R37: every register after an edge at which `rst` is 1.
The command latch and the hidden registers are unspecified there: the zeros are the model's DESIGN CHOICE (log 4).
The host's side, the three counters and `unitRun` are the model's own fields (log 1, log 2, log 5, log 19, log 20). -/
def State.reset : State where
  state := DEFAULT_STATE
  inc := DEFAULT_INC
  phase := .idle
  rspData := 0
  rspErr := false
  cmdOp := 0
  cmdA := 0
  cmdB := 0
  latLeft := 0
  jumpRegs := { accMult := 0, accPlus := 0, curMult := 0, curPlus := 0, deltaRem := 0 }
  samplerRegs := { bnd := 0, thr := 0, prod := 0 }
  unitRun := .notSetUp
  pipe :=
    { between := List.replicate Config.permStagesBetween { xs := 0, rot := 0 }
      after := List.replicate Config.permStagesAfter 0 }
  drawEdges := 0
  script := []
  taken := []
  cycle := 0

end Sys2Proof.Machine
end

