-- ==== Sys2Proof/Machine/Flags.lean ====
section
/-!
DEFINITION. The block's one flag, the response's error bit (R25, R152).
-/

namespace Sys2Proof.Machine

/-- R152: the two things a response can report. -/
inductive Status where
  /-- The command completed: every defined command. -/
  | completed
  /-- Reserved opcode: `OP = 7` only. -/
  | reservedOpcode
deriving DecidableEq, Repr

/-- R152: the value of `RSP_ERR` for a status. -/
def errBit : Status → Bool
  | .completed => false
  | .reservedOpcode => true

end Sys2Proof.Machine
end

