-- ==== Sys2Proof/Machine/Operands.lean ====
section
/-!
DEFINITION. Operand forms and the width helpers of R10: how a command's operands enter its arithmetic.
-/

namespace Sys2Proof.Machine

/-- R10: `trunc_32(v)`, the value modulo 2^32. -/
def trunc32 (v : Word64) : Word32 := v.extractLsb' 0 32

/-- R10, R64: `zext_64(v)`, high bits zero. Nothing in the block is sign-extended. -/
def zext64 (v : Word32) : Word64 := v.setWidth 64

/-- R10: `mul_32x32(a, b)`, the exact 64-bit product of two 32-bit values; it never wraps. -/
def mul32x32 (a b : Word32) : Word64 := zext64 a * zext64 b

/-- R116: `m[31:0]`. -/
def lowHalf (m : Word64) : Word32 := m.extractLsb' 0 32

/-- R116: `m[63:32]`. -/
def highHalf (m : Word64) : Word32 := m.extractLsb' 32 32

/-- R82: `(sequence << 1) | 1`; bit 63 of `sequence` is lost (R65). -/
def incOfSequence (sequence : Word64) : Word64 := (sequence <<< 1) ||| 1#64

/-- R137: the jump count of RETREAT, the 64-bit negation of `delta`. -/
def retreatCount (delta : Word64) : Word64 := -delta

end Sys2Proof.Machine
end

