-- ==== Sys2Proof/Machine/Lcg.lean ====
section
/-!
DEFINITION. The LCG state machine and the output permutation (R90, R92).
-/

namespace Sys2Proof.Machine

/-- R90, R130: `lcg_step(s, c) = s * MULT + c`, product and sum modulo 2^64.
The factors stand in the order of R130: a product of a variable by a literal on its right makes Lean's kernel count the
literal down. -/
def lcgStep (s c : Word64) : Word64 := MULT * s + c

/-- R13, R121: `lcg_step` applied `n` times, on the stream of `c`. -/
def lcgSteps : Nat → Word64 → Word64 → Word64
  | 0, s, _ => s
  | n + 1, s, c => lcgSteps n (lcgStep s c) c

/-- R92: `xs = trunc_32(((old >> 18) ^ old) >> 27)`. -/
def xorShifted (old : Word64) : Word32 :=
  trunc32 (((old >>> XS_SHIFT1) ^^^ old) >>> XS_SHIFT2)

/-- R92: `rot = trunc_32(old >> 59)`, in 0 .. 31. -/
def rotation (old : Word64) : Word32 := trunc32 (old >>> ROT_SHIFT)

/-- R92, R93: rotate right without a branch; the mask keeps the left shift in 0 .. 31. -/
def rotateRightMasked (xs rot : Word32) : Word32 :=
  (xs >>> rot) ||| (xs <<< ((-rot) &&& 31#32))

/-- R92: the output permutation `perm(old)`. -/
def perm (old : Word64) : Word32 := rotateRightMasked (xorShifted old) (rotation old)

end Sys2Proof.Machine
end

