-- ==== Sys2Proof/Machine/Ops.lean ====
section
/-!
DEFINITION. The named operations on State: the draw, the response of a command (which is also what stands in the
place of an exception, R151, R155), the events of a rising edge, and the output ports.
-/

namespace Sys2Proof.Machine

/-- R95 `draw()`: the output comes from the state before the step, and so does the new state; `INC` is only read. -/
def draw (s : State) : Word32 × State :=
  (perm s.state, { s with state := lcgStep s.state s.inc })

/-- The rejection loops of R112 and R116: draw until `accept` holds, at most `fuel` times.
`none` where every one of the `fuel` draws is rejected. -/
def drawUntil (accept : Word32 → Bool) : Nat → State → Option (Word32 × State)
  | 0, _ => none
  | fuel + 1, s =>
    if accept (draw s).1 then some (draw s) else drawUntil accept fuel (draw s).2

/-- R80, R82: write both architectural registers. -/
def loadGenerator (state inc : Word64) (s : State) : State :=
  { s with state := state, inc := inc }

/-- R135, R137: write `STATE` alone. -/
def loadState (state : Word64) (s : State) : State :=
  { s with state := state }

/-- R11, R27, R179: `respond(data, err)`; the command is complete and its response is held. -/
def respond (data : Word32) (status : Status) (s : State) : State :=
  { s with rspData := data, rspErr := errBit status, phase := .resp }

/-- R151, R155: what the block does where other machines take an exception: an ordinary response with the error bit;
no state is saved, no mode changes and control goes nowhere. -/
def respondError (s : State) : State :=
  respond 0 .reservedOpcode s

/-- R33: the inputs in the present cycle, sampled at the rising edge that ends it (log 1). -/
def State.pins (s : State) : Pins := s.script.headD Pins.quiet

/-- The edge is past: the host's next inputs stand at the ports (log 1). -/
def tick (s : State) : State :=
  { s with script := s.script.tail, cycle := s.cycle + 1 }

/-- R170, R173: the edge with `rst = 1`; the command in progress and its response are gone.
What the host drives and has taken, and the count of edges, are no registers of the block. -/
def resetEdge (s : State) : State :=
  { State.reset with script := s.script, taken := s.taken, cycle := s.cycle }

/-- R177: command acceptance; the latch captures the command and `LAT` starts to count (R174). -/
def acceptCommand (p : Pins) (s : State) : State :=
  { s with
    cmdOp := p.cmdOp
    cmdA := p.cmdA
    cmdB := p.cmdB
    phase := .exec
    unitRun := .notSetUp
    drawEdges := 0
    latLeft := Config.latency (decodeFields p.cmdOp p.cmdA p.cmdB) s.state s.inc }

/-- R27: the response held. -/
def heldResponse (s : State) : Response := { data := s.rspData, err := s.rspErr }

/-- R180: response transfer: the host takes the response and the block is free. -/
def takeResponse (s : State) : State :=
  { s with phase := .idle, taken := s.taken ++ [heldResponse s] }

/-- R33: the output ports. -/
structure Outputs where
  cmdReady : Bool
  rspValid : Bool
  rspData : Word32
  rspErr : Bool
  stateO : Word64
  incO : Word64
deriving DecidableEq, Repr

/-- R26, R33: `cmd_ready = (PHASE = IDLE) and not rst`. -/
def cmdReady (s : State) : Bool := decide (s.phase = .idle) && !s.pins.rst

/-- R26, R33: `rsp_valid = (PHASE = RESP) and not rst`. -/
def rspValid (s : State) : Bool := decide (s.phase = .resp) && !s.pins.rst

/-- R34, R184: whether the readback ports have a meaning in this cycle. -/
def readbackValid (s : State) : Bool := cmdReady s || rspValid s

/-- R33, R34, R175: the outputs in the present cycle; free values where the spec gives none (U2, U3; log 6, log 7). -/
def outputs (s : State) : Outputs where
  cmdReady := cmdReady s
  rspValid := rspValid s
  rspData := if rspValid s then s.rspData else trunc32 (Config.freeWord .rspDataO s.cycle)
  rspErr := if rspValid s then s.rspErr else (Config.freeWord .rspErrO s.cycle).getLsbD 0
  stateO := if readbackValid s then s.state else Config.freeWord .stateO s.cycle
  incO := if readbackValid s then s.inc else Config.freeWord .incO s.cycle

end Sys2Proof.Machine
end

