-- ==== Sys2Proof/Machine/Bounded.lean ====
section
/-!
DEFINITION. Bounded sampling (42_bounded.md): BOUNDED and FAST_BOUNDED.
-/

namespace Sys2Proof.Machine

/-- R110: `thresh32(b) = (-b) mod b`, evaluated for `b != 0` only (R111). -/
def thresh32 (b : Word32) : Word32 := (-b) % b

/-- The end of a bounded command: the response made from the accepted draw, or the model's fault where 2^64 draws
were all rejected (R122 excludes that for odd `INC`, log 11). -/
def finishSampling (result : Word32 → Word32) :
    Option (Word32 × State) → Host.Outcome State Fault Refusal
  | some (r, s) => .next (respond (result r) .completed s)
  | none => .fault .samplingNeverAccepts

/-- R112: BOUNDED accepts a draw `r >= t`. -/
def boundedAccepts (t r : Word32) : Bool := decide (t ≤ r)

/-- R112 `BOUNDED bound`: the classic rejection method; a zero bound makes no draw (R111). -/
def execBounded (bound : Word32) (s : State) : Host.Outcome State Fault Refusal :=
  if bound = 0 then
    .next (respond 0 .completed s)
  else
    finishSampling (fun r => r % bound)
      (drawUntil (boundedAccepts (thresh32 bound)) maxDraws s)

/-- R116: the low half of the product of a draw and the bound. -/
def productLow (bound r : Word32) : Word32 := lowHalf (mul32x32 r bound)

/-- R116: the high half of that product, the result where the draw is accepted. -/
def productHigh (bound r : Word32) : Word32 := highHalf (mul32x32 r bound)

/-- R116: the draws of FAST_BOUNDED: the threshold is looked at only where the first product's low half is below the
bound, and that same low half is tested before any redraw (R115). -/
def fastDraws (bound : Word32) (s : State) : Option (Word32 × State) :=
  if productLow bound (draw s).1 < bound then
    if productLow bound (draw s).1 < thresh32 bound then
      drawUntil (fun r => !decide (productLow bound r < thresh32 bound)) (maxDraws - 1) (draw s).2
    else some (draw s)
  else some (draw s)

/-- R116 `FAST_BOUNDED bound`: Lemire's method; a zero bound makes no draw (R111). -/
def execFastBounded (bound : Word32) (s : State) : Host.Outcome State Fault Refusal :=
  if bound = 0 then
    .next (respond 0 .completed s)
  else
    finishSampling (productHigh bound) (fastDraws bound s)

end Sys2Proof.Machine
end

