-- ==== Sys2Proof/Machine/Exceptions.lean ====
section
/-!
DEFINITION. The reserved opcode (60_exceptions.md): the only command that reports an error.
-/

namespace Sys2Proof.Machine

/-- R151: the reserved opcode answers data 0 with `RSP_ERR = 1`; `STATE` and `INC` are unchanged. -/
def execReserved (s : State) : Host.Outcome State Fault Refusal :=
  .next (respondError s)

end Sys2Proof.Machine
end

