-- ==== Sys2Proof/Machine/Jump.lean ====
section
/-!
DEFINITION. The jump-ahead multiplier unit (43_jump.md): ADVANCE and RETREAT.
The function of R131 runs on the five working registers that R29 and R133 name.
-/

namespace Sys2Proof.Machine

/-- R131, R133: the unit's registers on entry. -/
def JumpRegs.load (c d : Word64) : JumpRegs :=
  { accMult := 1#64, accPlus := 0#64, curMult := MULT, curPlus := c, deltaRem := d }

/-- R131: fold the current power into the accumulated transform, both sides from the old values. -/
def JumpRegs.fold (u : JumpRegs) : JumpRegs :=
  { u with accMult := u.accMult * u.curMult, accPlus := u.accPlus * u.curMult + u.curPlus }

/-- R131: square the current power, both sides from the old values. -/
def JumpRegs.square (u : JumpRegs) : JumpRegs :=
  { u with curPlus := (u.curMult + 1#64) * u.curPlus, curMult := u.curMult * u.curMult }

/-- R131: one pass of the loop: fold if bit 0 of the remaining count is set, always square, shift the count. -/
def JumpRegs.iterate (u : JumpRegs) : JumpRegs :=
  let folded := if u.deltaRem.getLsbD 0 then u.fold else u
  { folded.square with deltaRem := u.deltaRem >>> 1 }

/-- R131: `while d != 0`, for at most `fuel` passes; 64 are always enough for a 64-bit count. -/
def JumpRegs.run : Nat → JumpRegs → JumpRegs
  | 0, u => u
  | fuel + 1, u => if u.deltaRem = 0#64 then u else JumpRegs.run fuel u.iterate

/-- R131, R133: the final multiply-add. -/
def JumpRegs.apply (u : JumpRegs) (s : Word64) : Word64 := u.accMult * s + u.accPlus

/-- R131: `jump(s, c, d)`. -/
def jump (s c d : Word64) : Word64 := ((JumpRegs.load c d).run 64).apply s

/-- R135 `ADVANCE delta`: jump forward with the stream's own `INC`, which stays. -/
def execAdvance (delta : Word64) (s : State) : Host.Outcome State Fault Refusal :=
  .next (respond 0 .completed (loadState (jump s.state s.inc delta) s))

/-- R137 `RETREAT delta`: jump by the 64-bit negation of `delta`. -/
def execRetreat (delta : Word64) (s : State) : Host.Outcome State Fault Refusal :=
  .next (respond 0 .completed (loadState (jump s.state s.inc (retreatCount delta)) s))

end Sys2Proof.Machine
end

