-- ==== Sys2Proof/Machine/RawOutput.lean ====
section
/-!
DEFINITION. Raw output (41_raw_output.md): RANDOM.
-/

namespace Sys2Proof.Machine

/-- R96 `RANDOM`: one draw, answered. -/
def execRandom (s : State) : Host.Outcome State Fault Refusal :=
  .next (respond (draw s).1 .completed (draw s).2)

end Sys2Proof.Machine
end

