-- ==== Sys2Proof/Machine/Seeding.lean ====
section
/-!
DEFINITION. Construction and seeding (40_seeding.md): INIT and SEED.
-/

namespace Sys2Proof.Machine

/-- R80 `INIT`: default construction; the previous `STATE` and `INC` are not read. -/
def execInit (s : State) : Host.Outcome State Fault Refusal :=
  .next (respond 0 .completed (loadGenerator DEFAULT_STATE DEFAULT_INC s))

/-- R82: `state_new`, one LCG step of `initstate + inc_new` on the new stream. -/
def seededState (initstate incNew : Word64) : Word64 :=
  lcgStep (initstate + incNew) incNew

/-- R82 `SEED initstate, sequence`: the previous `STATE` and `INC` are not read (D13). -/
def execSeed (initstate sequence : Word64) (s : State) : Host.Outcome State Fault Refusal :=
  .next (respond 0 .completed
    (loadGenerator (seededState initstate (incOfSequence sequence)) (incOfSequence sequence) s))

end Sys2Proof.Machine
end

