-- ==== Sys2Proof/Machine/Dispatch.lean ====
section
/-! DEFINITION. The one match from an instruction to its meaning (R62). -/

namespace Sys2Proof.Machine

def exec (i : Instr) (s : State) : Host.Outcome State Fault Refusal :=
  match i with
  | .init => Sys2Proof.Machine.execInit s
  | .seed initstate sequence => Sys2Proof.Machine.execSeed initstate sequence s
  | .random => Sys2Proof.Machine.execRandom s
  | .bounded bound => Sys2Proof.Machine.execBounded bound s
  | .fastBounded bound => Sys2Proof.Machine.execFastBounded bound s
  | .advance delta => Sys2Proof.Machine.execAdvance delta s
  | .retreat delta => Sys2Proof.Machine.execRetreat delta s
  | .reserved => Sys2Proof.Machine.execReserved s

end Sys2Proof.Machine
end

