-- ==== Sys2Proof/Machine/Pipeline.lean ====
section
/-!
DEFINITION. The output permutation pipeline (R31, R98): its two logical stages, and one clock edge of its registers.
-/

namespace Sys2Proof.Machine

/-- R98 stage 1: `xs = (old ^ (old >> 18))[58:27]` and `rot = old[63:59]`. -/
def permStage1 (old : Word64) : PermStage :=
  { xs := (old ^^^ (old >>> 18)).extractLsb' 27 32, rot := old.extractLsb' 59 5 }

/-- R98 stage 2: a 32-bit barrel rotator, `rotate_right(xs, rot)`. -/
def permStage2 (p : PermStage) : Word32 := p.xs.rotateRight p.rot.toNat

/-- R31, R98: one clock edge of a chain of pipeline registers: `x` enters, the oldest value leaves. -/
def shiftStages {α : Type} (x : α) : List α → α × List α
  | [] => (x, [])
  | r :: rest => ((shiftStages r rest).1, x :: (shiftStages r rest).2)

/-- How many register stages a pipeline has. -/
def PermPipe.stages (p : PermPipe) : Nat := p.between.length + p.after.length

/-- R98: stage 1 and the registers between the stages at an edge, with the old state at the input. -/
def PermPipe.clockBetween (old : Word64) (p : PermPipe) : PermStage × List PermStage :=
  shiftStages (permStage1 old) p.between

/-- R98: stage 2 and the registers after it at that edge. -/
def PermPipe.clockAfter (old : Word64) (p : PermPipe) : Word32 × List Word32 :=
  shiftStages (permStage2 (p.clockBetween old).1) p.after

/-- R98: what leaves the pipeline at an edge with the old state at its input. -/
def PermPipe.output (old : Word64) (p : PermPipe) : Word32 := (p.clockAfter old).1

/-- R98: the pipeline's registers after that edge. -/
def PermPipe.clock (old : Word64) (p : PermPipe) : PermPipe :=
  { between := (p.clockBetween old).2, after := (p.clockAfter old).2 }

/-- U4: any value in a register between the stages. -/
def freePermStage (k cycle : Nat) : PermStage :=
  { xs := trunc32 (Config.freeWord (.pipe k) cycle), rot := (Config.freeWord (.pipe k) cycle).extractLsb' 32 5 }

/-- R31, U4: any value in the pipeline's registers, of which there are `PERM_STAGES` (log 8). -/
def freePipe (cycle : Nat) : PermPipe :=
  { between := (List.range Config.permStagesBetween).map fun k => freePermStage k cycle
    after := (List.range Config.permStagesAfter).map fun k =>
      trunc32 (Config.freeWord (.pipe (Config.permStagesBetween + k)) cycle) }

end Sys2Proof.Machine
end

