-- ==== Sys2Proof/Machine/Units.lean ====
section
/-!
DEFINITION. The working units while a command runs: what the jump unit's, the bounded-sampling unit's and the permutation
pipeline's registers hold (R29 to R31, R98, R123, R133), and what an edge in EXEC does to them.
A command's first edge in EXEC sets its unit up from the latch (R28, the setup of R188), and RANDOM's starts its draw;
every later edge before the completing one retires iterations. `LAT` is free of that (R174): the completing edge does
what is left, and after it the registers are unspecified (R29 to R31, U4).
-/

namespace Sys2Proof.Machine

/-- R28, R177, R179: the command in the latch; execution never reads the live inputs. -/
def latched (s : State) : Instr := decodeFields s.cmdOp s.cmdA s.cmdB

/-! ### Registers outside their use: free values (U4, log 8) -/

/-- R29, U4: any value in the jump unit's registers. -/
def freeJumpRegs (cycle : Nat) : JumpRegs :=
  { accMult := Config.freeWord .accMult cycle
    accPlus := Config.freeWord .accPlus cycle
    curMult := Config.freeWord .curMult cycle
    curPlus := Config.freeWord .curPlus cycle
    deltaRem := Config.freeWord .deltaRem cycle }

/-- R30, U4: any value in the bounded-sampling unit's registers. -/
def freeSamplerRegs (cycle : Nat) : SamplerRegs :=
  { bnd := trunc32 (Config.freeWord .bnd cycle)
    thr := trunc32 (Config.freeWord .thr cycle)
    prod := Config.freeWord .prod cycle }

/-! ### The jump unit (R29, R133) -/

/-- R132, R133: iterations with no stop at `DELTA_REM = 0`. -/
def JumpRegs.runFixed : Nat → JumpRegs → JumpRegs
  | 0, u => u
  | n + 1, u => JumpRegs.runFixed n u.iterate

/-- R133: the unit's registers after `n` iterations from `u`: it stops when `DELTA_REM = 0`, or it runs a fixed 64
iterations (D22, U10). -/
def jumpUnitAfter (n : Nat) (u : JumpRegs) : JumpRegs :=
  if Config.jumpRunsAll64 then JumpRegs.runFixed (min n 64) u else JumpRegs.run n u

/-- R133: one cycle of the unit after `n` iterations: `JUMP_BITS_PER_CYCLE` more, none once it has stopped. -/
def jumpUnitCycle (n : Nat) (u : JumpRegs) : JumpRegs :=
  if Config.jumpRunsAll64 then JumpRegs.runFixed (min Config.jumpBitsPerCycle (64 - n)) u
  else JumpRegs.run Config.jumpBitsPerCycle u

/-! ### The bounded-sampling unit (R30, R123) -/

/-- R123: the unit latches `BND`; the threshold and product registers hold what they held. -/
def SamplerRegs.enter (bound : Word32) (u : SamplerRegs) : SamplerRegs := { u with bnd := bound }

/-- R123: the threshold, one 32-bit modulo of `2^32 - bound`, latched in `THR`. -/
def SamplerRegs.latchThreshold (u : SamplerRegs) : SamplerRegs := { u with thr := thresh32 u.bnd }

/-- What one iteration of the bounded-sampling unit leaves: the response where its draw was accepted, and the unit's
registers. -/
structure SamplerStep where
  response : Option Word32
  regs : SamplerRegs
deriving DecidableEq, Repr

/-- R123, BOUNDED: the draw `r` is tested against `THR`; an accepted one goes to the modulo unit. -/
def boundedIteration (u : SamplerRegs) (r : Word32) : SamplerStep :=
  { response := if u.thr ≤ r then some (r % u.bnd) else none, regs := u }

/-- R123, FAST_BOUNDED: the product of the draw `r` is latched in `PROD`; the threshold is latched only when the low half
is below `BND` (log 14). -/
def fastIteration (u : SamplerRegs) (r : Word32) : SamplerStep :=
  let p : SamplerRegs := { u with prod := mul32x32 r u.bnd }
  if lowHalf p.prod < p.bnd then
    let t := p.latchThreshold
    { response := if lowHalf t.prod < t.thr then none else some (highHalf t.prod), regs := t }
  else { response := some (highHalf p.prod), regs := p }

/-! ### An edge in EXEC -/

/-- The working units' registers, how far the running unit has come, and for how many edges the draw under way has fed
the pipeline. -/
structure Units where
  jumpRegs : JumpRegs
  samplerRegs : SamplerRegs
  unitRun : UnitRun
  pipe : PermPipe
  drawEdges : Nat
deriving DecidableEq, Repr

/-- U4: after an edge at which no unit is in use and no draw is under way. -/
def unusedUnits (cycle : Nat) : Units :=
  { jumpRegs := freeJumpRegs cycle
    samplerRegs := freeSamplerRegs cycle
    unitRun := .notSetUp
    pipe := freePipe cycle
    drawEdges := 0 }

/-- R29, R133: an edge of the jump unit with count `d`: set-up, then iterations. The other units are outside their use. -/
def jumpEdge (d : Word64) (s : State) : Units :=
  match s.unitRun with
  | .notSetUp => { unusedUnits s.cycle with jumpRegs := JumpRegs.load s.inc d, unitRun := .running 0 }
  | .running n =>
    { unusedUnits s.cycle with
      jumpRegs := jumpUnitCycle n s.jumpRegs
      unitRun := .running (n + Config.jumpBitsPerCycle) }
  | .finished n => { unusedUnits s.cycle with jumpRegs := s.jumpRegs, unitRun := .finished n }

/-- R30, R123: the bounded-sampling unit set up for a bound. `BND` holds it; a zero bound needs no draw (R111), and
`thresh32(0)` is never evaluated. `early` says whether the threshold is latched at once (BOUNDED) or when a product
needs it (FAST_BOUNDED). What is not latched yet takes any value (U4, log 8). -/
def samplerSetUp (early : Bool) (bound : Word32) (cycle : Nat) : SamplerRegs :=
  if early && decide (bound ≠ 0) then ((freeSamplerRegs cycle).enter bound).latchThreshold
  else (freeSamplerRegs cycle).enter bound

/-- The old state of draw number `n` (from 0) of the running command: a rejected draw advances the stream (R123), and
the register `STATE` itself is written at the completing edge alone (R179, log 17). -/
def oldState (n : Nat) (s : State) : Word64 := lcgSteps n s.state s.inc

/-- R98: the pipeline's registers after an edge of draw number `n`: the old state stands at its input (log 20). -/
def clockedPipe (n : Nat) (s : State) : PermPipe := s.pipe.clock (oldState n s)

/-- R98: what leaves the pipeline at an edge of draw number `n`. -/
def drawnValue (n : Nat) (s : State) : Word32 := s.pipe.output (oldState n s)

/-- R98, R188: the draw under way has passed every register stage, so that what leaves the pipeline is its output. -/
def drawThrough (s : State) : Bool := decide (s.pipe.stages ≤ s.drawEdges)

/-- R30, R98, R123: an edge of the bounded-sampling unit: set-up, then draws through the pipeline, each ended by an
iteration at some edge after it has come through (log 19, log 20). The jump unit is outside its use.
DESIGN CHOICE (log 8): a register not latched in the running command (`PROD` in BOUNDED; `THR` and `PROD` in FAST_BOUNDED
before a product needs them; all but `BND` for a zero bound) takes a free value at the set-up edge and holds it at the
later edges in EXEC, where U4 would allow another value at each. -/
def samplerEdge (early : Bool) (iteration : SamplerRegs → Word32 → SamplerStep) (bound : Word32) (s : State) : Units :=
  match s.unitRun with
  | .notSetUp =>
    { unusedUnits s.cycle with
      samplerRegs := samplerSetUp early bound s.cycle
      unitRun := if bound = 0 then .finished 0 else .running 0 }
  | .running n =>
    if drawThrough s && Config.drawEnds s.cycle then
      { unusedUnits s.cycle with
        samplerRegs := (iteration s.samplerRegs (drawnValue n s)).regs
        unitRun :=
          if (iteration s.samplerRegs (drawnValue n s)).response.isSome then .finished (n + 1) else .running (n + 1)
        pipe := clockedPipe n s }
    else
      { unusedUnits s.cycle with
        samplerRegs := s.samplerRegs
        unitRun := .running n
        pipe := clockedPipe n s
        drawEdges := s.drawEdges + 1 }
  | .finished n => { unusedUnits s.cycle with samplerRegs := s.samplerRegs, unitRun := .finished n }

/-- R96, R98: an edge of RANDOM, whose one draw is under way from the first edge in EXEC (log 20). -/
def randomEdge (s : State) : Units :=
  { unusedUnits s.cycle with pipe := clockedPipe 0 s, drawEdges := s.drawEdges + 1 }

/-- R98, R123, R133: what an edge before the completing one does to the units, by the command that runs. -/
def unitEdge (i : Instr) (s : State) : Units :=
  match i with
  | .init => unusedUnits s.cycle
  | .seed _ _ => unusedUnits s.cycle
  | .random => randomEdge s
  | .bounded bound => samplerEdge true boundedIteration bound s
  | .fastBounded bound => samplerEdge false fastIteration bound s
  | .advance delta => jumpEdge delta s
  | .retreat delta => jumpEdge (retreatCount delta) s
  | .reserved => unusedUnits s.cycle

/-- The hidden working registers (R29 to R31) and the model's own counts of their runs put into a state. -/
def withUnits (u : Units) (s : State) : State :=
  { s with
    jumpRegs := u.jumpRegs
    samplerRegs := u.samplerRegs
    unitRun := u.unitRun
    pipe := u.pipe
    drawEdges := u.drawEdges }

/-- R176: an edge in EXEC before the completing one: internal progress of the units in use. -/
def progress (s : State) : State :=
  withUnits (unitEdge (latched s) s) { s with latLeft := s.latLeft - 1 }

/-- R29 to R31, R179, U4: the completing edge, apart from what the command's rule writes: the units go out of use. -/
def completing (s : State) : State :=
  withUnits (unusedUnits s.cycle) { s with latLeft := s.latLeft - 1 }

end Sys2Proof.Machine
end

