-- ==== Sys2Proof/Machine/Edge.lean ====
section
/-!
DEFINITION. One rising edge of `clk` (70_reset_and_hazards.md, R170 to R181), and how a command word is placed so that
the next edge completes it.
-/

namespace Sys2Proof.Machine

/-- R176, R177, R178: an edge in IDLE. -/
def idleEdge (p : Pins) (s : State) : State :=
  if p.cmdValid then acceptCommand p s else s

/-- R176, R179: an edge in EXEC: the `LAT`-th since acceptance completes the latched command as one transaction,
an earlier one is internal progress only. The meaning is a function of the command, `STATE` and `INC` (R32); that the
unit's registers lead to the same result is an obligation. -/
def execEdge (s : State) : Host.Outcome State Fault Refusal :=
  if s.latLeft ≤ 1 then exec (latched s) (completing s) else .next (progress s)

/-- R176, R180, R181: an edge in RESP. -/
def respEdge (p : Pins) (s : State) : State :=
  if p.rspReady then takeResponse s else s

/-- R154, R170, R176: one rising edge; reset wins over everything, and otherwise the phase says what can happen. -/
def clockEdge (s : State) : Host.Outcome State Fault Refusal :=
  if s.pins.rst then .next (resetEdge (tick s))
  else
    match s.phase with
    | .idle => .next (idleEdge s.pins (tick s))
    | .exec => execEdge (tick s)
    | .resp => .next (respEdge s.pins (tick s))

/-- The inputs with `rst = 0` in the present cycle, and otherwise as they are. -/
def withoutReset : List Pins → List Pins
  | [] => []
  | p :: rest => { p with rst := false } :: rest

/-- A state whose next edge completes the command word `cw`: it stands in the latch, accepted, its `LAT`-th edge is
the next, and that edge is no reset edge. Nothing else changes (log 15). -/
def withAccepted (s : State) (cw : CommandWord) : State :=
  { s with
    cmdOp := opField cw
    cmdA := aField cw
    cmdB := bField cw
    phase := .exec
    unitRun := .notSetUp
    drawEdges := 0
    latLeft := 1
    script := withoutReset s.script }

end Sys2Proof.Machine
end

