-- ==== Sys2Proof/Machine/Step.lean ====
section
/-! DEFINITION. One step of the machine: one rising edge of `clk` (R175). -/

namespace Sys2Proof.Machine

/-- One step: one rising edge. -/
def step (s : State) : Host.Outcome State Fault Refusal := clockEdge s

/-- `s` with the command word whose bits are the low `nbits` of `w` accepted and about to complete, so that the very
next step runs exactly it: the block fetches nothing (R24), so this stands for the host's command transfer (log 15). -/
def State.withFetchWord (s : State) (nbits w : Nat) : State :=
  withAccepted s (BitVec.ofNat 131 (w % 2 ^ nbits))

end Sys2Proof.Machine
end

