-- ==== Sys2Proof/Machine/Assembler.lean ====
section
/-!
DEFINITION. The assembler: the text of one line (R68), the checks (R69), the command word (R70) and the
pseudo-commands (R71). It is no part of the block; the machine's step does not use it.
What R68 leaves open about the text (blanks, the case of hexadecimal digits, lines without a command) is log 16.
-/

namespace Sys2Proof.Machine

/-- A blank between the parts of a line. -/
def isBlank (c : Char) : Bool := c == ' ' || c == '\t'

/-- Without the blanks at both ends. -/
def trimBlanks (cs : List Char) : List Char :=
  ((cs.dropWhile isBlank).reverse.dropWhile isBlank).reverse

/-- R68: `;` starts a comment. -/
def withoutComment (cs : List Char) : List Char := cs.takeWhile fun c => c != ';'

/-- R68: operands are separated by a comma. -/
def splitCommas : List Char → List (List Char)
  | [] => [[]]
  | c :: cs =>
    match splitCommas cs with
    | [] => [[c]]
    | w :: ws => if c == ',' then [] :: w :: ws else (c :: w) :: ws

/-- The value of a decimal digit. -/
def decDigit (c : Char) : Option Nat :=
  if '0' ≤ c && c ≤ '9' then some (c.toNat - 48) else none

/-- The value of a hexadecimal digit. -/
def hexDigit (c : Char) : Option Nat :=
  if '0' ≤ c && c ≤ '9' then some (c.toNat - 48)
  else if 'a' ≤ c && c ≤ 'f' then some (c.toNat - 87)
  else if 'A' ≤ c && c ≤ 'F' then some (c.toNat - 55)
  else none

/-- Digits of one base, most significant first, onto the value read so far. -/
def readDigits (base : Nat) (digit : Char → Option Nat) : Nat → List Char → Option Nat
  | acc, [] => some acc
  | acc, c :: cs =>
    match digit c with
    | some d => readDigits base digit (acc * base + d) cs
    | none => none

/-- R68: a decimal numeral or a `0x` hexadecimal numeral, naming an unsigned value. -/
def readNumeral : List Char → Option Nat
  | [] => none
  | '0' :: 'x' :: [] => none
  | '0' :: 'x' :: d :: ds => readDigits 16 hexDigit 0 (d :: ds)
  | d :: ds => readDigits 10 decDigit 0 (d :: ds)

/-- R68, R71: the names an assembly line may begin with, upper case. -/
def asmNames : List (List Char × AsmName) :=
  [ (['I', 'N', 'I', 'T'], .init),
    (['S', 'E', 'E', 'D'], .seed),
    (['R', 'A', 'N', 'D', 'O', 'M'], .random),
    (['B', 'O', 'U', 'N', 'D', 'E', 'D'], .bounded),
    (['F', 'A', 'S', 'T', '_', 'B', 'O', 'U', 'N', 'D', 'E', 'D'], .fastBounded),
    (['A', 'D', 'V', 'A', 'N', 'C', 'E'], .advance),
    (['R', 'E', 'T', 'R', 'E', 'A', 'T'], .retreat),
    (['N', 'E', 'W'], .new),
    (['S', 'K', 'I', 'P'], .skip),
    (['D', 'I', 'S', 'C', 'A', 'R', 'D'], .discard),
    (['B', 'A', 'C', 'K'], .back) ]

/-- The numeric operands of a line, in order. -/
def readOperands (cs : List Char) : Except AsmError (List Nat) :=
  if trimBlanks cs = [] then .ok []
  else
    match (splitCommas cs).mapM fun w => readNumeral (trimBlanks w) with
    | some ns => .ok ns
    | none => .error .badNumeral

/-- R68: the text of one line; `none` for a line that holds no command. -/
def readLine (text : List Char) : Except AsmError (Option AsmLine) :=
  let body := trimBlanks (withoutComment text)
  if body = [] then .ok none
  else
    match asmNames.lookup (body.takeWhile fun c => !isBlank c) with
    | none => .error .unknownName
    | some name =>
      match readOperands (body.dropWhile fun c => !isBlank c) with
      | .ok operands => .ok (some { name, operands })
      | .error e => .error e

/-- R70, R71: the instruction of a name and its operands; each pseudo-command expands to exactly one command. -/
def instrOfName : AsmName → List Nat → Except AsmError Instr
  | .init, [] => .ok .init
  | .seed, [a, b] => .ok (.seed (BitVec.ofNat 64 a) (BitVec.ofNat 64 b))
  | .random, [] => .ok .random
  | .bounded, [n] => .ok (.bounded (BitVec.ofNat 32 n))
  | .fastBounded, [n] => .ok (.fastBounded (BitVec.ofNat 32 n))
  | .advance, [n] => .ok (.advance (BitVec.ofNat 64 n))
  | .retreat, [n] => .ok (.retreat (BitVec.ofNat 64 n))
  | .new, [] => .ok .init
  | .skip, [n] => .ok (.advance (BitVec.ofNat 64 n))
  | .discard, [] => .ok (.advance 1#64)
  | .back, [n] => .ok (.retreat (BitVec.ofNat 64 n))
  | _, _ => .error .operandCount

/-- R69: an assembler refuses a missing or extra operand and one outside its range; it never truncates. -/
def assembleInstr (l : AsmLine) : Except AsmError Instr :=
  if l.countOk then
    if l.rangeOk then instrOfName l.name l.operands else .error .operandRange
  else .error .operandCount

/-- R70: assembly to a command word. -/
def assemble (l : AsmLine) : Except AsmError CommandWord :=
  match assembleInstr l with
  | .ok i => .ok (encode i)
  | .error e => .error e

/-- R68 to R71: one line of text to at most one command word. -/
def assembleText (text : List Char) : Except AsmError (Option CommandWord) :=
  match readLine text with
  | .ok none => .ok none
  | .ok (some l) =>
    match assemble l with
    | .ok cw => .ok (some cw)
    | .error e => .error e
  | .error e => .error e

end Sys2Proof.Machine
end

