-- ==== Sys2Proof/Machine/Reference.lean ====
section
/-!
DEFINITION. The reference microarchitecture (R98, R123, R133, R188). The spec calls it informative: no functional rule
depends on it. The pipeline, the jump unit and the bounded-sampling unit, whose registers State holds, are in
Machine/Pipeline.lean and Machine/Units.lean; here they are run by themselves, to their end, and here stands the reference
timing, neither of which the machine's step uses. Each unit is stated (in the obligations) to compute what the normative
rule computes.
-/

namespace Sys2Proof.Machine

/-! ### The output permutation pipeline (R98) -/

/-- R98: the values that leave a chain of pipeline registers, one for each value that enters. -/
def runStages {α : Type} : List α → List α → List α
  | [], _ => []
  | x :: xs, regs => (shiftStages x regs).1 :: runStages xs (shiftStages x regs).2

/-- R98: the values that leave the pipeline of the step, one at each edge, for the old states that stand at its input. -/
def runPipe : List Word64 → PermPipe → List Word32
  | [], _ => []
  | old :: olds, p => p.output old :: runPipe olds (p.clock old)

/-! ### The jump unit run for a number of cycles (R133) -/

/-- R133: one cycle of the unit: `bits` iterations, none once `DELTA_REM = 0`. -/
def JumpRegs.cycle (bits : Nat) (u : JumpRegs) : JumpRegs := JumpRegs.run bits u

/-- R133: `n` cycles of the unit. -/
def JumpRegs.cycles (bits : Nat) : Nat → JumpRegs → JumpRegs
  | 0, u => u
  | n + 1, u => JumpRegs.cycles bits n (u.cycle bits)

/-! ### The bounded-sampling unit run to its answer (R123) -/

/-- R123: iterations of a unit until one responds, at most `fuel` of them; a rejected draw still advances `STATE`. -/
def runSampler (iteration : SamplerRegs → Word32 → SamplerStep) :
    Nat → SamplerRegs → State → Option (Word32 × State)
  | 0, _, _ => none
  | fuel + 1, u, s =>
    match (iteration u (draw s).1).response with
    | some r => some (r, (draw s).2)
    | none => runSampler iteration fuel (iteration u (draw s).1).regs (draw s).2

/-- R123: BOUNDED with a nonzero bound, on the unit as it stands. -/
def referenceBounded (u : SamplerRegs) (bound : Word32) (s : State) : Option (Word32 × State) :=
  runSampler boundedIteration maxDraws (u.enter bound).latchThreshold s

/-- R123: FAST_BOUNDED with a nonzero bound, on the unit as it stands. -/
def referenceFast (u : SamplerRegs) (bound : Word32) (s : State) : Option (Word32 × State) :=
  runSampler fastIteration maxDraws (u.enter bound) s

/-! ### Reference timing (R188) -/

/-- R188: the bit length of a jump count, 0 when it is 0. -/
def bitLength (d : Word64) : Nat := if d = 0 then 0 else d.toNat.log2 + 1

/-- R188: `ceil(n / j)`. -/
def ceilDiv (n j : Nat) : Nat := (n + j - 1) / j

/-- R188: setup, iterations and final multiply-add of a jump by `d`. -/
def referenceJumpLatency (d : Word64) : Nat :=
  if Config.jumpRunsAll64 then 2 + ceilDiv 64 Config.jumpBitsPerCycle
  else 1 + ceilDiv (bitLength d) Config.jumpBitsPerCycle + 1

/-- R188: the reference `LAT`, with `draws` the number of draws a bounded command makes and `needsThreshold` whether
FAST_BOUNDED needs its threshold. -/
def referenceLatency (draws : Nat) (needsThreshold : Bool) : Instr → Nat
  | .init => 1
  | .seed _ _ => 1
  | .random => 1 + Config.permStages
  | .bounded bound =>
    if bound = 0 then 1 else 1 + Config.modLat + draws * (1 + Config.permStages) + Config.modLat
  | .fastBounded bound =>
    if bound = 0 then 1
    else 1 + draws * (1 + Config.permStages) + (if needsThreshold then Config.modLat else 0)
  | .advance delta => referenceJumpLatency delta
  | .retreat delta => referenceJumpLatency (retreatCount delta)
  | .reserved => 1

end Sys2Proof.Machine
end

