-- ==== Sys2Proof/Safety.lean ====
section
/-!
DEFINITION. The terms claims are stated in: numbered draws, the state invariant, what the working units hold while they
run, command sequences, and what the host offers and takes along a run.
-/

namespace Sys2Proof.Machine

/-- The output of draw number `k` (from 0) of a generator at `s` on the stream of `c` (R95). -/
def nthDraw (k : Nat) (s c : Word64) : Word32 := perm (lcgSteps k s c)

/-- R21: `INC[0] = 1`. -/
abbrev incOdd (s : State) : Prop := s.inc.getLsbD 0 = true

/-- R21, R27, R152, R176: what holds of the block in every state a run can reach.
(1) `INC` is odd (in EXEC too, where the model holds it at its value at acceptance).
(2) In EXEC the completing edge is still to come.
(3) In RESP the error bit is set exactly for the reserved opcode in the latch.
(4) In RESP an error response carries data 0.
(5) The pipeline has its `PERM_STAGES` registers, between its two stages and after them. -/
structure StateInv (s : State) : Prop where
  odd : incOdd s
  pending : s.phase = .exec → 1 ≤ s.latLeft
  errIffReserved : s.phase = .resp → (s.rspErr = true ↔ latched s = .reserved)
  errData : s.phase = .resp → s.rspErr = true → s.rspData = 0
  stages : s.pipe.between.length = Config.permStagesBetween ∧ s.pipe.after.length = Config.permStagesAfter

/-- R29, R133: the jump unit's registers `n` iterations into a jump by `d`: those of R131 from the loaded ones. -/
structure JumpHolds (d : Word64) (s : State) : Prop where
  running : ∀ n, s.unitRun = .running n → s.jumpRegs = jumpUnitAfter n (JumpRegs.load s.inc d)
  unfinished : ∀ n, s.unitRun ≠ .finished n

/-- R31, R98: the first `m` registers of the pipeline, of those it has, hold the draw whose old state is `old`: `xs` and
`rot` between the stages, the rotated output after them. -/
structure PipeHolds (m : Nat) (old : Word64) (p : PermPipe) : Prop where
  between : ∀ x ∈ p.between.take m, x = permStage1 old
  after : ∀ y ∈ p.after.take (m - p.between.length), y = permStage2 (permStage1 old)

/-- R31, R98: the pipeline while draw number `n` of the running command is under way. -/
abbrev drawHolds (n : Nat) (s : State) : Prop := PipeHolds s.drawEdges (oldState n s) s.pipe

/-- R30, R123: the bounded-sampling unit's registers in a BOUNDED command: the bound, the threshold from set-up on, and
every draw so far rejected but the last of a finished one. -/
structure BoundedHolds (b : Word32) (s : State) : Prop where
  running : ∀ n, s.unitRun = .running n →
    b ≠ 0 ∧ s.samplerRegs.bnd = b ∧ s.samplerRegs.thr = thresh32 b ∧
    (∀ j < n, nthDraw j s.state s.inc < thresh32 b) ∧ drawHolds n s
  finished : ∀ n, s.unitRun = .finished n →
    s.samplerRegs.bnd = b ∧ (b = 0 → n = 0) ∧
    (b ≠ 0 → ∃ k, n = k + 1 ∧ s.samplerRegs.thr = thresh32 b ∧ (∀ j < k, nthDraw j s.state s.inc < thresh32 b) ∧
      thresh32 b ≤ nthDraw k s.state s.inc)

/-- R30, R123: the bounded-sampling unit's registers in a FAST_BOUNDED command: the bound, the last product from the
first draw on, and the threshold once a product has needed it. -/
structure FastHolds (b : Word32) (s : State) : Prop where
  running : ∀ n, s.unitRun = .running n →
    b ≠ 0 ∧ s.samplerRegs.bnd = b ∧
    (∀ j < n, productLow b (nthDraw j s.state s.inc) < thresh32 b) ∧
    (∀ k, n = k + 1 →
      s.samplerRegs.prod = mul32x32 (nthDraw k s.state s.inc) b ∧ s.samplerRegs.thr = thresh32 b) ∧
    drawHolds n s
  finished : ∀ n, s.unitRun = .finished n →
    s.samplerRegs.bnd = b ∧ (b = 0 → n = 0) ∧
    (b ≠ 0 → ∃ k, n = k + 1 ∧ (∀ j < k, productLow b (nthDraw j s.state s.inc) < thresh32 b) ∧
      ¬ productLow b (nthDraw k s.state s.inc) < thresh32 b ∧
      s.samplerRegs.prod = mul32x32 (nthDraw k s.state s.inc) b ∧
      (productLow b (nthDraw k s.state s.inc) < b ∨ 0 < k → s.samplerRegs.thr = thresh32 b))

/-- R29 to R31, R98, R123, R133: what the working units hold while the command in the latch runs. Before the
set-up (`.notSetUp`), outside a draw and outside EXEC they may hold anything (U4). -/
structure UnitInv (s : State) : Prop where
  random : s.phase = .exec → latched s = .random → drawHolds 0 s
  advance : ∀ d, s.phase = .exec → latched s = .advance d → JumpHolds d s
  retreat : ∀ d, s.phase = .exec → latched s = .retreat d → JumpHolds (retreatCount d) s
  bounded : ∀ b, s.phase = .exec → latched s = .bounded b → BoundedHolds b s
  fastBounded : ∀ b, s.phase = .exec → latched s = .fastBounded b → FastHolds b s

/-- One command served outside the clock: its meaning, then the host takes the response (R52). -/
def serve (i : Instr) (s : State) : Host.Outcome State Fault Refusal :=
  match exec i s with
  | .next t => .next (takeResponse t)
  | .fault r => .fault r
  | .refused r => .refused r

/-- R52 (2), R187: the commands of a list served in order. -/
def serveAll : List Instr → State → Host.Outcome State Fault Refusal
  | [], s => .next s
  | i :: rest, s =>
    match serve i s with
    | .next t => serveAll rest t
    | .fault r => .fault r
    | .refused r => .refused r

/-- R177: the command offered in the present cycle. -/
def offered (s : State) : Instr := decodeFields s.pins.cmdOp s.pins.cmdA s.pins.cmdB

/-- R177: the command transferred at the coming edge, if any. -/
def acceptedNow (s : State) : Option Instr :=
  if cmdReady s && s.pins.cmdValid then some (offered s) else none

/-- R24: the program order: the commands accepted in the next `n` edges. -/
def acceptedAlong : Nat → State → List Instr
  | 0, _ => []
  | n + 1, s =>
    match step s with
    | .next t => (acceptedNow s).toList ++ acceptedAlong n t
    | _ => []

/-- No reset edge among the next `n` edges. -/
abbrev noReset (n : Nat) (s : State) : Prop := ∀ p ∈ s.script.take n, p.rst = false

/-- `n` edges of the machine, stopping at the first fault or refusal. -/
def runEdges : Nat → State → Host.Outcome State Fault Refusal
  | 0, s => .next s
  | n + 1, s =>
    match step s with
    | .next t => runEdges n t
    | .fault r => .fault r
    | .refused r => .refused r

/-- `s` with other operand words in the command latch. -/
def withLatchedOperands (a b : Word64) (s : State) : State := { s with cmdA := a, cmdB := b }

/-- `s` with other command inputs in the present cycle, which the sample `p` gives otherwise. -/
def withOffer (p : Pins) (rest : List Pins) (valid : Bool) (op : Opcode) (a b : Word64) (s : State) : State :=
  { s with script := { p with cmdValid := valid, cmdOp := op, cmdA := a, cmdB := b } :: rest }

/-- A function on the next state, faults and refusals as they are. -/
def mapNext (f : State → State) : Host.Outcome State Fault Refusal → Host.Outcome State Fault Refusal
  | .next t => .next (f t)
  | .fault r => .fault r
  | .refused r => .refused r

/-- R176: an edge of an idle block that accepts a command. -/
abbrev accepts (s : State) : Prop := s.phase = .idle ∧ s.pins.rst = false ∧ s.pins.cmdValid = true

/-- R174: the `LAT` of the command offered in the present cycle. -/
def offeredLatency (s : State) : Nat := Config.latency (offered s) s.state s.inc

/-- How many of the `2^32` possible draws `accept` takes and `result` maps to `j` (R113, R117). -/
def acceptedCount (accept : Word32 → Bool) (result : Word32 → Word32) (j : Word32) : Nat :=
  Nat.count (fun n => accept (BitVec.ofNat 32 n) = true ∧ result (BitVec.ofNat 32 n) = j) (2 ^ 32)

end Sys2Proof.Machine
end

