-- ==== Sys2Proof/Certificates/Slice0/Obligations.lean ====
section
/-!
DEFINITION. The statements for the provers, each from a rule of spec/. `OBLIGATIONS.json` lists them.
Where a result equation `exec i s = .next { s with … }` stands, it is the instruction's completion and its whole frame:
every field it does not name is unchanged. The block has no memory, so no statement speaks of one (R45).
`script`, `taken`, `cycle`, `latLeft`, `unitRun` and `drawEdges` are the model's own fields (log 1, log 2, log 5, log 19,
log 20): a statement that names one speaks of what the host drives, of what it has taken, of the count towards `LAT`, and of
how far the running unit and its draw have come.
`exec` is applied to a state whose hidden registers have already gone out of use at the completing edge (log 8): that a
result equation names no hidden register is a claim about `exec`, none about the hardware's hidden registers; the same
holds of the command latch (log 9).
-/

open Sys2Proof Sys2Proof.Machine

/-! ### Command words (30_encoding.md) -/

/-- R60, R62, R64, R70: the decoder reads back every instruction the encoder writes, with every operand at every value. -/
def Obligations.DecodeReadsBackEncode : Prop :=
  ∀ i : Instr, decode (encode i) = i

/-- R62, R63: `OP` alone selects the row, for every `A` and `B`, and every one of the 2^131 words has that form. -/
def Obligations.OpcodeAloneSelectsTheCommand : Prop :=
  (∀ a b : Word64,
    decode (commandWord 0#3 b a) = .init ∧
    decode (commandWord 1#3 b a) = .seed a b ∧
    decode (commandWord 2#3 b a) = .random ∧
    decode (commandWord 3#3 b a) = .bounded (a.setWidth 32) ∧
    decode (commandWord 4#3 b a) = .fastBounded (a.setWidth 32) ∧
    decode (commandWord 5#3 b a) = .advance a ∧
    decode (commandWord 6#3 b a) = .retreat a ∧
    decode (commandWord 7#3 b a) = .reserved) ∧
  (∀ cw : CommandWord, ∃ (op : Opcode) (b a : Word64), cw = commandWord op b a ∧ opcodeOf (decode cw) = op)

/-- R66: what stands in an ignored field changes no response and no state: a running command and its completion, the
acceptance of an offer, and the fields an assembler leaves zero.
The model's choices in it: that `LAT` does not see an ignored field either (`latLeft` in the acceptance clause; log 3),
and that the latch holds outside EXEC (the running clause; log 9). -/
def Obligations.IgnoredFieldsHaveNoEffect : Prop :=
  (∀ (op : Opcode) (a b a' b' : Word64),
    (op = 0#3 ∨ op = 2#3 ∨ op = 7#3) ∨
    ((op = 3#3 ∨ op = 4#3) ∧ a.setWidth 32 = a'.setWidth 32) ∨
    ((op = 5#3 ∨ op = 6#3) ∧ a = a') →
      decodeFields op a b = decodeFields op a' b') ∧
  (∀ (s : State) (a' b' : Word64), s.phase ≠ .idle → s.pins.rst = false →
    decodeFields s.cmdOp a' b' = decodeFields s.cmdOp s.cmdA s.cmdB →
      step (withLatchedOperands a' b' s) = mapNext (withLatchedOperands a' b') (step s)) ∧
  (∀ (s : State) (p : Pins) (a' b' : Word64),
    decodeFields p.cmdOp a' b' = decodeFields p.cmdOp p.cmdA p.cmdB →
      acceptCommand { p with cmdA := a', cmdB := b' } s = withLatchedOperands a' b' (acceptCommand p s)) ∧
  (∀ i : Instr, (∀ a q, i ≠ .seed a q) → bField (encode i) = 0) ∧
  (∀ i : Instr, i = .init ∨ i = .random ∨ i = .reserved → aField (encode i) = 0) ∧
  (∀ b : Word32, aField (encode (.bounded b)) >>> 32 = 0 ∧ aField (encode (.fastBounded b)) >>> 32 = 0)

/-- R62, R70: command words written out from the tables of 30_encoding.md and 95_test_vectors.md. -/
def Obligations.WrittenWordsDecode : Prop :=
  decode 0x00000000000000000000000000000000#131 = .init ∧
  decode 0x10000000000000036000000000000002a#131 = .seed 42#64 54#64 ∧
  decode 0x200000000000000000000000000000000#131 = .random ∧
  decode 0x300000000000000000000000000000006#131 = .bounded 6#32 ∧
  decode 0x4000000000000000000000000c0000000#131 = .fastBounded 0xc0000000#32 ∧
  decode 0x500000000000000000000000000000005#131 = .advance 5#64 ∧
  decode 0x600000000000000000000000000000006#131 = .retreat 6#64 ∧
  decode 0x7ffffffffffffffffffffffffffffffff#131 = .reserved

/-- R70: a well-formed line assembles to `OP` of its command, the first operand in `A`, the second in `B` and zeros in
the ignored fields; the reserved code cannot be assembled. -/
def Obligations.AssemblyToCommandWords : Prop :=
  assemble ⟨.init, []⟩ = .ok (commandWord 0#3 0 0) ∧
  (∀ a q : Word64, assemble ⟨.seed, [a.toNat, q.toNat]⟩ = .ok (commandWord 1#3 q a)) ∧
  assemble ⟨.random, []⟩ = .ok (commandWord 2#3 0 0) ∧
  (∀ b : Word32, assemble ⟨.bounded, [b.toNat]⟩ = .ok (commandWord 3#3 0 (b.setWidth 64))) ∧
  (∀ b : Word32, assemble ⟨.fastBounded, [b.toNat]⟩ = .ok (commandWord 4#3 0 (b.setWidth 64))) ∧
  (∀ d : Word64, assemble ⟨.advance, [d.toNat]⟩ = .ok (commandWord 5#3 0 d)) ∧
  (∀ d : Word64, assemble ⟨.retreat, [d.toNat]⟩ = .ok (commandWord 6#3 0 d)) ∧
  (∀ (l : AsmLine) (cw : CommandWord), assemble l = .ok cw → opField cw ≠ 7#3) ∧
  assemble ⟨.seed, [42, 54]⟩ = .ok 0x10000000000000036000000000000002a#131 ∧
  assemble ⟨.bounded, [6]⟩ = .ok 0x300000000000000000000000000000006#131

/-- R69: the assembler refuses exactly a missing or extra operand and one out of range, each by name; it never
truncates: a bound of 2^32 or more and a 64-bit operand of 2^64 or more are refused. -/
def Obligations.AssemblerRefusesBadOperands : Prop :=
  (∀ l : AsmLine, l.operands.length ≠ l.name.operandLimits.length → assemble l = .error .operandCount) ∧
  (∀ m n : Nat, (∃ cw, assemble ⟨.seed, [m, n]⟩ = .ok cw) ↔ m < 2 ^ 64 ∧ n < 2 ^ 64) ∧
  (∀ (name : AsmName) (n : Nat), name = .bounded ∨ name = .fastBounded →
    ((∃ cw, assemble ⟨name, [n]⟩ = .ok cw) ↔ n < 2 ^ 32)) ∧
  (∀ (name : AsmName) (n : Nat), name = .advance ∨ name = .retreat ∨ name = .skip ∨ name = .back →
    ((∃ cw, assemble ⟨name, [n]⟩ = .ok cw) ↔ n < 2 ^ 64)) ∧
  (∀ l : AsmLine, (∃ cw, assemble l = .ok cw) ∨ assemble l = .error .operandCount ∨
    assemble l = .error .operandRange)

/-- R71: each pseudo-command expands to exactly one command, and DISCARD leaves the `STATE` one RANDOM leaves, with
response 0. -/
def Obligations.PseudoCommandsExpand : Prop :=
  assemble ⟨.new, []⟩ = assemble ⟨.init, []⟩ ∧
  (∀ n : Nat, assemble ⟨.skip, [n]⟩ = assemble ⟨.advance, [n]⟩) ∧
  assemble ⟨.discard, []⟩ = assemble ⟨.advance, [1]⟩ ∧
  (∀ n : Nat, assemble ⟨.back, [n]⟩ = assemble ⟨.retreat, [n]⟩) ∧
  (∀ s : State, ∃ t u : State, exec (.advance 1#64) s = .next t ∧ exec .random s = .next u ∧
    t.state = u.state ∧ t.inc = u.inc ∧ t.rspData = 0)

/-! ### Construction and seeding (40_seeding.md) -/

/-- R80: INIT from any state; it is idempotent, leaves what reset leaves in `STATE` and `INC`, and the next RANDOM
answers `0x152ca78d`. -/
def Obligations.InitLoadsTheDefaults : Prop :=
  ∀ s : State, ∃ t u : State,
    t = { s with state := 0x853c49e6748fea9b#64, inc := 0xda3e39cb94b95bdb#64, rspData := 0, rspErr := false,
                 phase := .resp } ∧
    exec .init s = .next t ∧ exec .init t = .next t ∧
    t.state = State.reset.state ∧ t.inc = State.reset.inc ∧
    exec .random t = .next u ∧ u.rspData = 0x152ca78d#32

/-- R82: SEED from any state, its corner cases and its example. -/
def Obligations.SeedLoadsTheStream : Prop :=
  (∀ (initstate sequence : Word64) (s : State), ∃ t : State,
    t = { s with state := (initstate + (sequence <<< 1 ||| 1#64)) * 0x5851f42d4c957f2d#64 + (sequence <<< 1 ||| 1#64),
                 inc := sequence <<< 1 ||| 1#64, rspData := 0, rspErr := false, phase := .resp } ∧
    exec (.seed initstate sequence) s = .next t ∧
    exec (.seed initstate sequence) t = .next t ∧
    exec (.seed initstate (sequence ^^^ 0x8000000000000000#64)) s = .next t ∧
    (sequence = 0 → t.inc = 1#64)) ∧
  (∀ s : State, ∃ t, exec (.seed 42#64 54#64) s = .next t ∧ t.inc = 0x6d#64 ∧ t.state = 0x185706b82c2e03f8#64 ∧
    t.rspData = 0)

/-- R83: after every SEED, `INC` is odd. -/
def Obligations.SeedLeavesIncOdd : Prop :=
  ∀ (initstate sequence : Word64) (s : State),
    ∃ t, exec (.seed initstate sequence) s = .next t ∧ incOdd t ∧ t.inc.toNat % 2 = 1

/-- R65: bit 63 of `sequence` is the only bit without effect: two sequences select the same stream exactly where they
agree but for it. -/
def Obligations.SequencesSelectStreamsUpToBit63 : Prop :=
  ∀ (initstate q q' : Word64) (s : State),
    (exec (.seed initstate q) s = exec (.seed initstate q') s ↔
      q = q' ∨ q = q' ^^^ 0x8000000000000000#64)

/-- R84: the seeding formula is the three-step procedure: from 0 one step, add `initstate`, one step. -/
def Obligations.SeedIsTheThreeStepProcedure : Prop :=
  ∀ (initstate sequence : Word64) (s : State),
    ∃ t, exec (.seed initstate sequence) s = .next t ∧
      t.state = lcgStep (lcgStep 0#64 t.inc + initstate) t.inc ∧ lcgStep 0#64 t.inc = t.inc

/-! ### LCG, permutation and RANDOM (41_raw_output.md) -/

/-- R90: the step is `s * MULT + c` modulo 2^64, with the rule's four examples. -/
def Obligations.LcgStepWraps : Prop :=
  (∀ s c : Word64, (lcgStep s c).toNat = (s.toNat * 6364136223846793005 + c.toNat) % 2 ^ 64) ∧
  lcgStep 0#64 1#64 = 1#64 ∧ lcgStep 1#64 1#64 = 0x5851f42d4c957f2e#64 ∧
  lcgStep 0xffffffffffffffff#64 1#64 = 0xa7ae0bd2b36a80d4#64 ∧
  lcgStep 0x853c49e6748fea9b#64 0xda3e39cb94b95bdb#64 = 0xc83015ca079f7e1a#64

/-- R92: `perm` is the rule's formula, and equivalently `xs = (old ^ (old >> 18))[58:27]` rotated right by
`rot = old[63:59]`. -/
def Obligations.PermIsRotateRight : Prop :=
  ∀ old : Word64,
    perm old = ((old ^^^ (old >>> 18)).extractLsb' 27 32).rotateRight (old.extractLsb' 59 5).toNat ∧
    ∀ xs rot : Word32,
      xs = (((old >>> 18) ^^^ old) >>> 27).setWidth 32 → rot = (old >>> 59).setWidth 32 →
      perm old = (xs >>> rot.toNat) ||| (xs <<< ((-rot) &&& 31#32).toNat) ∧ rot.toNat < 32

/-- R93: the corner cases of `perm` and its examples. -/
def Obligations.PermCornerCases : Prop :=
  (∀ old : Word64, old.extractLsb' 59 5 = 0#5 → perm old = xorShifted old) ∧
  (∀ old : Word64, old.extractLsb' 59 5 = 31#5 → perm old = (xorShifted old >>> 31) ||| (xorShifted old <<< 1)) ∧
  perm 0#64 = 0#32 ∧
  (∀ old old' : Word64, old >>> 27 = old' >>> 27 → perm old = perm old') ∧
  (perm 0xffffffffffffffff#64 = 0xfff00001#32 ∧ perm 0x853c49e6748fea9b#64 = 0x152ca78d#32 ∧
   perm 0x0000000008000000#64 = 0x00000001#32 ∧ perm 0x8000000000000000#64 = 0x00000004#32)

/-- R91: for odd `c` the step is a bijection with one cycle of length 2^64. -/
def Obligations.LcgHasFullPeriod : Prop :=
  ∀ c : Word64, c.getLsbD 0 = true →
    Function.Bijective (fun s => lcgStep s c) ∧
    (∀ s : Word64, lcgSteps (2 ^ 64) s c = s) ∧
    (∀ (s : Word64) (n : Nat), 0 < n → n < 2 ^ 64 → lcgSteps n s c ≠ s) ∧
    (∀ s t : Word64, ∃ n : Nat, n < 2 ^ 64 ∧ lcgSteps n s c = t)

/-- R94: every output belongs to exactly 2^32 states, one for each `rot` and each value of `old[26:0]`, and occurs
exactly 2^32 times in a full period of draws. -/
def Obligations.OutputsAreEquidistributed : Prop :=
  (∀ (y : Word32) (rot : BitVec 5) (low : BitVec 27),
    ∃! old : Word64, perm old = y ∧ old.extractLsb' 59 5 = rot ∧ old.extractLsb' 0 27 = low) ∧
  (∀ y : Word32, Nat.count (fun n => perm (BitVec.ofNat 64 n) = y) (2 ^ 64) = 2 ^ 32) ∧
  (∀ (y : Word32) (s c : Word64), c.getLsbD 0 = true →
    Nat.count (fun k => nthDraw k s c = y) (2 ^ 64) = 2 ^ 32)

/-- R95, R96: one draw, and RANDOM from any state, with the rule's example. -/
def Obligations.RandomAnswersOneDraw : Prop :=
  (∀ s : State, draw s = (perm s.state, { s with state := lcgStep s.state s.inc })) ∧
  (∀ s : State, exec .random s =
    .next { s with state := s.state * 0x5851f42d4c957f2d#64 + s.inc, rspData := perm s.state, rspErr := false,
                   phase := .resp }) ∧
  (∀ s : State, s.state = 0 → ∃ t, exec .random s = .next t ∧ t.rspData = 0 ∧ t.state = s.inc) ∧
  (∀ s : State, s.state = 0x185706b82c2e03f8#64 → s.inc = 0x6d#64 →
    ∃ t, exec .random s = .next t ∧ t.rspData = 0xa15c02b7#32 ∧ t.state = 0x2b47fed88766bb05#64)

/-- R97: after a SEED the responses, `STATE` and `INC` of any commands are the same from any two states. -/
def Obligations.SeedDeterminesTheStream : Prop :=
  ∀ (initstate sequence : Word64) (cs : List Instr) (s s' : State),
    ∃ (t t' : State) (rs : List Response),
      serveAll (.seed initstate sequence :: cs) s = .next t ∧
      serveAll (.seed initstate sequence :: cs) s' = .next t' ∧
      t.taken = s.taken ++ rs ∧ t'.taken = s'.taken ++ rs ∧ rs.length = cs.length + 1 ∧
      t.state = t'.state ∧ t.inc = t'.inc

/-! ### Bounded sampling (42_bounded.md) -/

/-- R110: `thresh32(b) = (2^32 - b) mod b = 2^32 mod b`, below `b`, with the rule's examples. -/
def Obligations.ThresholdIsPowerModBound : Prop :=
  (∀ b : Word32, b ≠ 0 →
    (thresh32 b).toNat = (2 ^ 32 - b.toNat) % b.toNat ∧ (thresh32 b).toNat = 2 ^ 32 % b.toNat ∧
    (thresh32 b).toNat < b.toNat) ∧
  (∀ k : Nat, k ≤ 31 → thresh32 (1#32 <<< k) = 0) ∧
  thresh32 1#32 = 0#32 ∧ thresh32 6#32 = 4#32 ∧ thresh32 100#32 = 96#32 ∧
  thresh32 0x80000001#32 = 0x7fffffff#32 ∧ thresh32 0xc0000000#32 = 0x40000000#32 ∧
  thresh32 0xffffffff#32 = 1#32

/-- R111: a zero bound is answered 0 with no draw and no change of `STATE`, from any state, by both commands. -/
def Obligations.ZeroBoundMakesNoDraw : Prop :=
  ∀ s : State,
    exec (.bounded 0) s = .next { s with rspData := 0, rspErr := false, phase := .resp } ∧
    exec (.fastBounded 0) s = .next { s with rspData := 0, rspErr := false, phase := .resp }

/-- R112, R121, R122: with `INC` odd, BOUNDED with a nonzero bound draws until the first draw not below the threshold,
at most 2^64 of them, and answers its remainder; `STATE` is as many steps on as draws were made, which is where
ADVANCE of that count goes. -/
def Obligations.BoundedAnswersFirstAcceptedDraw : Prop :=
  ∀ (b : Word32) (s : State), b ≠ 0 → incOdd s →
    ∃ k : Nat, k < 2 ^ 64 ∧
      (∀ j < k, (nthDraw j s.state s.inc).toNat < 2 ^ 32 % b.toNat) ∧
      2 ^ 32 % b.toNat ≤ (nthDraw k s.state s.inc).toNat ∧
      exec (.bounded b) s =
        .next { s with state := lcgSteps (k + 1) s.state s.inc,
                       rspData := BitVec.ofNat 32 ((nthDraw k s.state s.inc).toNat % b.toNat), rspErr := false,
                       phase := .resp } ∧
      lcgSteps (k + 1) s.state s.inc = jump s.state s.inc (BitVec.ofNat 64 (k + 1))

/-- R115, R116, R121, R122: with `INC` odd, FAST_BOUNDED with a nonzero bound draws until the first draw whose product's
low half is not below the threshold (the first draw is tested before any redraw), at most 2^64 of them, and answers
the high half of that product. -/
def Obligations.FastBoundedAnswersFirstAcceptedProduct : Prop :=
  ∀ (b : Word32) (s : State), b ≠ 0 → incOdd s →
    ∃ k : Nat, k < 2 ^ 64 ∧
      (∀ j < k, (nthDraw j s.state s.inc).toNat * b.toNat % 2 ^ 32 < 2 ^ 32 % b.toNat) ∧
      2 ^ 32 % b.toNat ≤ (nthDraw k s.state s.inc).toNat * b.toNat % 2 ^ 32 ∧
      exec (.fastBounded b) s =
        .next { s with state := lcgSteps (k + 1) s.state s.inc,
                       rspData := BitVec.ofNat 32 ((nthDraw k s.state s.inc).toNat * b.toNat / 2 ^ 32),
                       rspErr := false, phase := .resp } ∧
      lcgSteps (k + 1) s.state s.inc = jump s.state s.inc (BitVec.ofNat 64 (k + 1))

/-- R120: every answer of either command lies below a nonzero bound and is 0 for a zero bound, from every state in
which it answers. -/
def Obligations.BoundedAnswersLieInRange : Prop :=
  ∀ (b : Word32) (s t : State), exec (.bounded b) s = .next t ∨ exec (.fastBounded b) s = .next t →
    (b ≠ 0 → t.rspData.toNat < b.toNat) ∧ (b = 0 → t.rspData = 0)

/-- R113: BOUNDED accepts `2^32 - (2^32 mod bound)` draws, and each residue belongs to `floor(2^32 / bound)` of them. -/
def Obligations.BoundedIsUniformOverAcceptedDraws : Prop :=
  ∀ b : Word32, b ≠ 0 →
    Nat.count (fun n => boundedAccepts (thresh32 b) (BitVec.ofNat 32 n) = true) (2 ^ 32) = 2 ^ 32 - 2 ^ 32 % b.toNat ∧
    b.toNat ∣ 2 ^ 32 - 2 ^ 32 % b.toNat ∧
    ∀ j : Word32, j < b →
      acceptedCount (boundedAccepts (thresh32 b)) (fun r => r % b) j = 2 ^ 32 / b.toNat

/-- R117: the draws FAST_BOUNDED accepts are `floor(2^32 / bound)` for every result, and of the draws with that result
exactly one has its low half below the bound. -/
def Obligations.FastBoundedIsUniformOverAcceptedDraws : Prop :=
  ∀ b : Word32, b ≠ 0 → ∀ j : Word32, j < b →
    acceptedCount (fun r => !decide (productLow b r < thresh32 b)) (productHigh b) j = 2 ^ 32 / b.toNat ∧
    ∃! r : Word32, productHigh b r = j ∧ productLow b r < b

/-- R112 (c), R116 (c): for a power of two both commands make exactly one draw, from every state, `INC` odd or not;
BOUNDED answers its low bits and FAST_BOUNDED its high bits. -/
def Obligations.PowerOfTwoBoundsTakeOneDraw : Prop :=
  ∀ (k : Nat) (s : State), k ≤ 31 →
    exec (.bounded (1#32 <<< k)) s =
      .next { s with state := lcgStep s.state s.inc, rspData := perm s.state &&& ((1#32 <<< k) - 1#32),
                     rspErr := false, phase := .resp } ∧
    exec (.fastBounded (1#32 <<< k)) s =
      .next { s with state := lcgStep s.state s.inc, rspData := perm s.state >>> (32 - k), rspErr := false,
                     phase := .resp }

/-! ### The jump unit (43_jump.md) -/

/-- R132: `jump` is the step applied `d` times; after `i` iterations the current pair is the step's `2^i`-th power and the
accumulated pair is the power given by the bits of `d` below `i`; running all 64 iterations gives the same. -/
def Obligations.JumpIsIteratedStep : Prop :=
  (∀ s c d : Word64, jump s c d = lcgSteps d.toNat s c) ∧
  (∀ s c : Word64, jump s c 0#64 = s ∧ jump s c 1#64 = lcgStep s c) ∧
  (∀ (s c d : Word64) (i : Nat), i ≤ 64 →
    ((JumpRegs.load c d).runFixed i).curMult * s + ((JumpRegs.load c d).runFixed i).curPlus = lcgSteps (2 ^ i) s c ∧
    ((JumpRegs.load c d).runFixed i).accMult * s + ((JumpRegs.load c d).runFixed i).accPlus =
      lcgSteps (d.toNat % 2 ^ i) s c) ∧
  (∀ s c d : Word64, ((JumpRegs.load c d).runFixed 64).apply s = jump s c d)

/-- R135, R136: ADVANCE from any state moves `STATE` by the jump and answers 0; its corner cases and its example. -/
def Obligations.AdvanceJumpsForward : Prop :=
  (∀ (delta : Word64) (s : State), exec (.advance delta) s =
    .next { s with state := jump s.state s.inc delta, rspData := 0, rspErr := false, phase := .resp }) ∧
  (∀ s : State, jump s.state s.inc 0#64 = s.state) ∧
  (∀ s : State, jump s.state s.inc 1#64 = lcgStep s.state s.inc) ∧
  (∀ s : State, incOdd s → jump s.state s.inc 0x8000000000000000#64 = s.state + 0x8000000000000000#64) ∧
  (∀ s : State, lcgStep (jump s.state s.inc 0xffffffffffffffff#64) s.inc = s.state) ∧
  jump 0x185706b82c2e03f8#64 0x6d#64 5#64 = 0x8303569fbe80c471#64

/-- R137: RETREAT from any state jumps by the 64-bit negation of `delta`; its corner cases and its example. -/
def Obligations.RetreatJumpsByTheNegation : Prop :=
  (∀ (delta : Word64) (s : State), exec (.retreat delta) s =
    .next { s with state := jump s.state s.inc (BitVec.ofNat 64 (2 ^ 64 - delta.toNat)), rspData := 0, rspErr := false,
                   phase := .resp }) ∧
  (∀ s : State, ∃ t, exec (.retreat 0#64) s = .next t ∧ t.state = s.state) ∧
  (∀ s : State, ∃ t, exec (.retreat 1#64) s = .next t ∧ lcgStep t.state s.inc = s.state) ∧
  (∀ s : State, exec (.retreat 0x8000000000000000#64) s = exec (.advance 0x8000000000000000#64) s) ∧
  (∀ s : State, s.state = 0x185706b82c2e03f8#64 → s.inc = 0x6d#64 →
    ∃ t, exec (.retreat 1#64) s = .next t ∧ t.state = 0x97#64 ∧ t.state = 42#64 + 0x6d#64)

/-- R139: ADVANCE `n` leaves the `STATE` and `INC` that `n` RANDOM commands leave, for every state and every `n`. -/
def Obligations.AdvanceEqualsThatManyRandoms : Prop :=
  ∀ (n : Word64) (s : State),
    ∃ t u : State, serveAll (List.replicate n.toNat .random) s = .next t ∧ exec (.advance n) s = .next u ∧
      t.state = u.state ∧ t.inc = u.inc

/-- R138, R140: ADVANCE and RETREAT by the same `delta` are exact inverses in either order, for every state. -/
def Obligations.RetreatInvertsAdvance : Prop :=
  ∀ (delta : Word64) (s : State),
    (∃ t u : State, exec (.advance delta) s = .next t ∧ exec (.retreat delta) t = .next u ∧
      u.state = s.state ∧ u.inc = s.inc) ∧
    (∃ t u : State, exec (.retreat delta) s = .next t ∧ exec (.advance delta) t = .next u ∧
      u.state = s.state ∧ u.inc = s.inc)

/-- R141: ADVANCE `a` and then ADVANCE `b` leaves the `STATE` of ADVANCE `a + b`, the sum modulo 2^64. -/
def Obligations.AdvancesCompose : Prop :=
  ∀ (a b : Word64) (s : State),
    ∃ t u v : State, exec (.advance a) s = .next t ∧ exec (.advance b) t = .next u ∧
      exec (.advance (a + b)) s = .next v ∧ u.state = v.state ∧ u.inc = v.inc

/-! ### Errors, completion and frames (60_exceptions.md, 10_state.md) -/

/-- R151: the reserved opcode, with any `A` and `B`, answers data 0 with the error bit and changes neither `STATE` nor
`INC`; it is idempotent. -/
def Obligations.ReservedOpcodeAnswersError : Prop :=
  ∀ (a b : Word64) (s : State), ∃ t : State,
    t = { s with rspData := 0, rspErr := true, phase := .resp } ∧
    decodeFields 7#3 a b = .reserved ∧ exec .reserved s = .next t ∧ exec .reserved t = .next t

/-- R152: the error bit is set by the reserved opcode and by no other command, and then the data is 0. -/
def Obligations.ErrorBitIsReservedOpcodeOnly : Prop :=
  ∀ (i : Instr) (s t : State), exec i s = .next t →
    (t.rspErr = true ↔ i = .reserved) ∧ (t.rspErr = true → t.rspData = 0)

/-- R150: with `INC` odd every command completes, whatever its operands, and no defined one reports an error. -/
def Obligations.EveryCommandCompletes : Prop :=
  ∀ (i : Instr) (s : State), incOdd s →
    ∃ t, exec i s = .next t ∧ t.phase = .resp ∧ (i ≠ .reserved → t.rspErr = false)

/-- The model's own fault (log 11): only a bounded command with a nonzero bound raises it, only where `INC` is even,
and no instruction is refused. -/
def Obligations.FaultOnlyWithEvenInc : Prop :=
  (∀ (i : Instr) (s : State) (f : Fault), exec i s = .fault f →
    ¬ incOdd s ∧ ∃ b : Word32, b ≠ 0 ∧ (i = .bounded b ∨ i = .fastBounded b)) ∧
  (∀ (i : Instr) (s : State) (r : Refusal), exec i s ≠ .refused r)

/-- R22: what each command writes and reads: everything but `STATE`, `INC`, the response and the phase is unchanged by
all; `INC` is written by INIT and SEED alone; the reserved opcode leaves `STATE`; INIT and SEED read neither register. -/
def Obligations.CommandsWriteOnlyTheirRegisters : Prop :=
  (∀ (i : Instr) (s t : State), exec i s = .next t →
    t = { s with state := t.state, inc := t.inc, rspData := t.rspData, rspErr := t.rspErr, phase := .resp } ∧
    ((∀ a q, i ≠ .seed a q) → i ≠ .init → t.inc = s.inc) ∧
    (i = .reserved → t.state = s.state)) ∧
  (∀ (a q x c : Word64) (s : State),
    exec .init { s with state := x, inc := c } = exec .init s ∧
    exec (.seed a q) { s with state := x, inc := c } = exec (.seed a q) s)

/-! ### Reset, edges and ports (70_reset_and_hazards.md, 10_state.md) -/

/-- R37: what reset leaves in every register it gives a value. -/
def Obligations.ResetLeavesTheDefaults : Prop :=
  State.reset.state = 0x853c49e6748fea9b#64 ∧ State.reset.inc = 0xda3e39cb94b95bdb#64 ∧
  State.reset.phase = .idle ∧ State.reset.rspData = 0#32 ∧ State.reset.rspErr = false

/-- R154, R170, R173: an edge with `rst = 1` resets in every phase, whatever the other inputs are; the response is
not transferred. -/
def Obligations.ResetWinsAtAnEdge : Prop :=
  ∀ s : State, s.pins.rst = true →
    ∃ t, step s = .next t ∧ t.state = 0x853c49e6748fea9b#64 ∧ t.inc = 0xda3e39cb94b95bdb#64 ∧ t.phase = .idle ∧
      t.rspData = 0 ∧ t.rspErr = false ∧ t.taken = s.taken ∧ t.script = s.script.tail

/-- R171, R172: while `rst = 1` no handshake is offered; holding reset for `n` edges leaves the reset values; in the
first cycle after it with `rst = 0` the block is ready and the readback shows the defaults. -/
def Obligations.HoldingResetRepeatsIt : Prop :=
  (∀ s : State, s.pins.rst = true → (outputs s).cmdReady = false ∧ (outputs s).rspValid = false) ∧
  (∀ (n : Nat) (s : State), 0 < n → n ≤ s.script.length → (∀ p ∈ s.script.take n, p.rst = true) →
    ∃ t, runEdges n s = .next t ∧ t.state = 0x853c49e6748fea9b#64 ∧ t.inc = 0xda3e39cb94b95bdb#64 ∧ t.phase = .idle ∧
      t.taken = s.taken ∧ t.script = s.script.drop n ∧
      (t.pins.rst = false →
        (outputs t).cmdReady = true ∧ (outputs t).rspValid = false ∧
        (outputs t).stateO = 0x853c49e6748fea9b#64 ∧ (outputs t).incO = 0xda3e39cb94b95bdb#64))

/-- R176, R177, R178: an idle edge accepts exactly an offered command, into the latch, and otherwise changes nothing of
the block. That the jump, sampler and pipeline registers hold at an accepting edge, where U4 leaves them open, is the
model's choice (log 8); `unitRun`, `drawEdges`, `latLeft`, `script` and `cycle` are its own fields (log 19, log 20, log 5,
log 1). -/
def Obligations.IdleEdgeAcceptsAnOffer : Prop :=
  ∀ s : State, s.phase = .idle → s.pins.rst = false →
    (s.pins.cmdValid = true →
      step s = .next { s with cmdOp := s.pins.cmdOp, cmdA := s.pins.cmdA, cmdB := s.pins.cmdB, phase := .exec,
                              unitRun := .notSetUp, drawEdges := 0, latLeft := offeredLatency s, script := s.script.tail, cycle := s.cycle + 1 }) ∧
    (s.pins.cmdValid = false → step s = .next { s with script := s.script.tail, cycle := s.cycle + 1 })

/-- R176, R180, R181: an edge in RESP transfers the response exactly where the host is ready, and otherwise holds
everything; `STATE` and `INC` stay either way. That the hidden registers (log 8) and the command latch (log 9) hold in
RESP, which R180 and R181 do not say and U4 leaves open, is the model's choice; `taken`, `script` and `cycle` are its
own fields (log 2, log 1, log 5). -/
def Obligations.RespEdgeTransfersOrHolds : Prop :=
  ∀ s : State, s.phase = .resp → s.pins.rst = false →
    (s.pins.rspReady = true →
      step s = .next { s with phase := .idle, taken := s.taken ++ [⟨s.rspData, s.rspErr⟩], script := s.script.tail,
                              cycle := s.cycle + 1 }) ∧
    (s.pins.rspReady = false → step s = .next { s with script := s.script.tail, cycle := s.cycle + 1 })

/-- R179, R28: at the completing edge the step is `exec` of the instruction decoded from the latch, on the state whose
inputs have moved on and whose working units are out of use, with the `STATE` and `INC` held since acceptance; an
earlier edge in EXEC is internal progress.
The model's choices in it: `STATE` and `INC` are held over an earlier EXEC edge, where D14 lets a block step its
`STATE` (log 17); an edge with `latLeft` 0 completes (log 5); the hidden registers after the completing edge are free
(log 8). -/
def Obligations.StepRunsTheLatchedCommand : Prop :=
  ∀ s : State, s.phase = .exec → s.pins.rst = false →
    (s.latLeft ≤ 1 → step s = exec (decodeFields s.cmdOp s.cmdA s.cmdB) (completing (tick s))) ∧
    (1 < s.latLeft → step s = .next (progress (tick s))) ∧
    (∀ t, t = completing (tick s) ∨ t = progress (tick s) →
      t.state = s.state ∧ t.inc = s.inc ∧ t.taken = s.taken ∧ t.phase = .exec ∧ t.latLeft = s.latLeft - 1 ∧
      t.script = s.script.tail ∧ t.cmdOp = s.cmdOp ∧ t.cmdA = s.cmdA ∧ t.cmdB = s.cmdB ∧ t.rspData = s.rspData ∧
      t.rspErr = s.rspErr)

/-- The model's own placement (log 15): the next step of a state with a placed word runs exactly the decoded word on the
`STATE` and `INC` there were. -/
def Obligations.PlacedWordRunsNext : Prop :=
  ∀ (s : State) (w : Nat), w < 2 ^ 131 →
    ∃ u : State, step (s.withFetchWord 136 w) = exec (decode (BitVec.ofNat 131 w)) u ∧
      u.state = s.state ∧ u.inc = s.inc ∧ u.taken = s.taken

/-- R26, R33, R34, R175: the output ports in each phase, and that they depend on no input but `rst`. -/
def Obligations.OutputsShowPhaseAndRegisters : Prop :=
  (∀ s : State,
    ((outputs s).cmdReady = true ↔ s.phase = .idle ∧ s.pins.rst = false) ∧
    ((outputs s).rspValid = true ↔ s.phase = .resp ∧ s.pins.rst = false) ∧
    (s.phase ≠ .exec → s.pins.rst = false → (outputs s).stateO = s.state ∧ (outputs s).incO = s.inc) ∧
    (s.phase = .resp → s.pins.rst = false → (outputs s).rspData = s.rspData ∧ (outputs s).rspErr = s.rspErr)) ∧
  (∀ (s : State) (script : List Pins), ({ s with script := script } : State).pins.rst = s.pins.rst →
    outputs { s with script := script } = outputs s)

/-- R28, R184, R185: in EXEC and RESP the command inputs have no effect on an edge: an offer that is not accepted is
not remembered, and a running command does not see the live inputs; in IDLE without `cmd_valid` the payload has none. -/
def Obligations.UnacceptedOffersAreForgotten : Prop :=
  ∀ (s : State) (p : Pins) (rest : List Pins) (valid : Bool) (op : Opcode) (a b : Word64), s.script = p :: rest →
    (s.phase ≠ .idle → step (withOffer p rest valid op a b s) = step s) ∧
    (p.cmdValid = false → step (withOffer p rest false op a b s) = step s)

/-- R32: the hidden working registers have no effect: the step from a state with any other values of them (and any other
place in the unit's run and in the draw, log 19, log 20) gives the same outcome but for them, and the ports show the
same. -/
def Obligations.HiddenRegistersAreUnobservable : Prop :=
  ∀ (s : State) (u : Units),
    mapNext (withUnits u) (step (withUnits u s)) = mapNext (withUnits u) (step s) ∧
    outputs (withUnits u s) = outputs s

/-- R21, R37: the base case of the two invariants: they hold after reset, where the phase is IDLE, no unit runs and no
draw is under way (the model's own `unitRun`, log 19, and `drawEdges`, log 20). -/
def Obligations.ResetMeetsTheInvariant : Prop :=
  StateInv State.reset ∧ UnitInv State.reset ∧
  State.reset.phase = .idle ∧ State.reset.unitRun = .notSetUp ∧ State.reset.drawEdges = 0

/-- R21, R152, R174, R176: every edge keeps the invariant (`INC` odd, a completing edge to come in EXEC, the error bit in
RESP exactly for the latched reserved opcode and then data 0, `PERM_STAGES` pipeline registers). That INC is held in
EXEC (log 17), the latch in RESP (log 9) and the registers' places between and after the stages (log 10) are the model's
choices. -/
def Obligations.EveryStepKeepsTheInvariant : Prop :=
  ∀ s t : State, StateInv s → step s = .next t → StateInv t

/-- R122, R150: from every state that meets the invariant, every edge gives a next state: the machine never stops.
That the next state meets the invariant again rests on the model's choices too: the latch held in RESP (log 9), the
pipeline registers' places (log 10) and `INC` held in EXEC (log 17). -/
def Obligations.TheMachineNeverStops : Prop :=
  ∀ s : State, StateInv s → ∃ t, step s = .next t ∧ StateInv t

/-- R49, R174, R179: an accepted command stays in EXEC, with `STATE`, `INC` and the response registers untouched, until
the `LAT`-th edge after the accepting one, which commits the result of its meaning all at once.
The model's choices in it: the registers `STATE` and `INC` are untouched in EXEC, where D14 lets a block step `STATE`
(log 17), and `LAT` is a free parameter (log 3). -/
def Obligations.CommandCompletesAtItsLatency : Prop :=
  ∀ s u : State, accepts s → noReset (1 + offeredLatency s) s → exec (offered s) s = .next u →
    (∀ k : Nat, 1 ≤ k → k ≤ offeredLatency s →
      ∃ m, runEdges k s = .next m ∧ m.phase = .exec ∧ m.state = s.state ∧ m.inc = s.inc ∧ m.rspData = s.rspData ∧
        m.rspErr = s.rspErr) ∧
    ∃ t, runEdges (1 + offeredLatency s) s = .next t ∧ t.phase = .resp ∧ t.state = u.state ∧ t.inc = u.inc ∧
      t.rspData = u.rspData ∧ t.rspErr = u.rspErr ∧ t.taken = s.taken

/-- R52, R187: over any number of edges without reset, from idle to idle, with `INC` odd: the `STATE` and `INC` left and
the responses transferred, in order, are those of the accepted commands served one after another. -/
def Obligations.RunsEqualCommandsInOrder : Prop :=
  ∀ (n : Nat) (s t : State), s.phase = .idle → incOdd s → noReset n s → runEdges n s = .next t → t.phase = .idle →
    ∃ u, serveAll (acceptedAlong n s) s = .next u ∧ t.state = u.state ∧ t.inc = u.inc ∧ t.taken = u.taken

/-- R181: while the host never takes the response the block stays in RESP, for any number of edges, with the response,
`STATE` and `INC` held, `rsp_valid` offered and no command accepted. -/
def Obligations.UntakenResponseIsHeldForEver : Prop :=
  ∀ (n : Nat) (s : State), s.phase = .resp → (∀ p ∈ s.script.take n, p.rst = false ∧ p.rspReady = false) →
    ∃ t, runEdges n s = .next t ∧ t.phase = .resp ∧ t.rspData = s.rspData ∧ t.rspErr = s.rspErr ∧
      t.state = s.state ∧ t.inc = s.inc ∧ t.taken = s.taken ∧ acceptedAlong n s = [] ∧
      (t.pins.rst = false → (outputs t).rspValid = true)

/-- R189: after an acceptance none of the next `LAT + 1` edges accepts a command, and with the host ready at the first
edge in RESP the block can accept at the `LAT + 2`-th. -/
def Obligations.AcceptancesAreSpaced : Prop :=
  ∀ s : State, accepts s → incOdd s → noReset (2 + offeredLatency s) s →
    (∀ k : Nat, 1 ≤ k → k ≤ offeredLatency s + 1 → ∃ t, runEdges k s = .next t ∧ acceptedNow t = none) ∧
    (∃ t, runEdges (offeredLatency s + 1) s = .next t ∧ t.phase = .resp ∧
      (t.pins.rspReady = true →
        ∃ u, runEdges (offeredLatency s + 2) s = .next u ∧ u.phase = .idle ∧
          (u.pins.rst = false → u.pins.cmdValid = true → acceptedNow u = some (offered u))))

/-! ### The reference microarchitecture (informative) -/

/-- R98: the two-stage pipeline computes `perm`, and any number of register stages between the two, whatever they hold,
only delay it: after as many values as there are stages the outputs of `perm` leave in order. So it is with the step's
pipeline, which has registers between the stages and after them. -/
def Obligations.PipelineComputesPerm : Prop :=
  (∀ old : Word64, permStage2 (permStage1 old) = perm old) ∧
  (∀ (regs : List PermStage) (olds : List Word64),
    ((runStages (olds.map permStage1) regs).drop regs.length).map permStage2 =
      (olds.take (olds.length - regs.length)).map perm) ∧
  (∀ (p : PermPipe) (olds : List Word64),
    (runPipe olds p).drop p.stages = (olds.take (olds.length - p.stages)).map perm)

/-- R133: the jump unit at any number of bits a cycle, run for enough cycles to hold the count, computes `jump`; and so
does the unit of the step, stopping early or not, from wherever it stands after `n` iterations, with the count not yet
consumed in `DELTA_REM`. -/
def Obligations.JumpUnitComputesJump : Prop :=
  (∀ (s c d : Word64) (bits n : Nat), d.toNat < 2 ^ (bits * n) →
    (JumpRegs.cycles bits n (JumpRegs.load c d)).apply s = jump s c d ∧
    (JumpRegs.cycles bits n (JumpRegs.load c d)).deltaRem = 0#64) ∧
  (∀ (s c d : Word64) (n : Nat),
    ((jumpUnitAfter n (JumpRegs.load c d)).run 64).apply s = jump s c d ∧
    (jumpUnitAfter n (JumpRegs.load c d)).deltaRem = d >>> n)

/-- R119, R123: the bounded-sampling unit, whatever its registers held before, makes the draws and gives the answers of
the normative rules; FAST_BOUNDED's latched threshold is the one the rule computes.
The model's choices in it: the fault where 2^64 draws in a row are rejected (log 11), and when the unit latches `THR` and
`PROD` (log 14). -/
def Obligations.SamplerUnitComputesBounded : Prop :=
  ∀ (u : SamplerRegs) (b : Word32) (s : State), b ≠ 0 →
    exec (.bounded b) s = finishSampling id (referenceBounded u b s) ∧
    exec (.fastBounded b) s = finishSampling id (referenceFast u b s)

/-- R188: the rows of the reference timing, with `p`, `q`, `j` the parameters of R8 and `k` the number of draws; `n` is the
bit length of the jump count used. For a unit that stops early the iterations of the row are those after which the
step's jump unit has consumed the count: `c` cycles of `j` iterations, and no fewer. The table is informative: `LAT` is
free of it (log 3, log 14). -/
def Obligations.ReferenceLatencyFollowsTheTable : Prop :=
  (∀ (k : Nat) (needs : Bool) (a q : Word64),
    referenceLatency k needs .init = 1 ∧ referenceLatency k needs (.seed a q) = 1 ∧
    referenceLatency k needs .reserved = 1 ∧
    referenceLatency k needs .random = 1 + Config.permStages ∧
    referenceLatency k needs (.bounded 0) = 1 ∧ referenceLatency k needs (.fastBounded 0) = 1) ∧
  (∀ (k : Nat) (b : Word32), b ≠ 0 →
    (∀ needs, referenceLatency k needs (.bounded b) =
      1 + Config.modLat + k * (1 + Config.permStages) + Config.modLat) ∧
    referenceLatency k false (.fastBounded b) = 1 + k * (1 + Config.permStages) ∧
    referenceLatency k true (.fastBounded b) = 1 + k * (1 + Config.permStages) + Config.modLat) ∧
  (∀ (k : Nat) (needs : Bool) (i : Instr) (d : Word64),
    i = .advance d ∨ (∃ e : Word64, i = .retreat e ∧ d = BitVec.ofNat 64 (2 ^ 64 - e.toNat)) →
    (Config.jumpRunsAll64 = false → ∀ n : Nat, d.toNat < 2 ^ n → (n = 0 ∨ 2 ^ (n - 1) ≤ d.toNat) →
      ∃ c : Nat, referenceLatency k needs i = 1 + c + 1 ∧
        n ≤ Config.jumpBitsPerCycle * c ∧ (∀ m < c, Config.jumpBitsPerCycle * m < n) ∧
        ∀ (m : Nat) (inc : Word64),
          (jumpUnitAfter (Config.jumpBitsPerCycle * m) (JumpRegs.load inc d)).deltaRem = 0#64 ↔ c ≤ m) ∧
    (Config.jumpRunsAll64 = true →
      ∃ c : Nat, referenceLatency k needs i = 2 + c ∧
        64 ≤ Config.jumpBitsPerCycle * c ∧ ∀ m < c, Config.jumpBitsPerCycle * m < 64))

/-! ### The working units while a command runs (10_state.md R29 to R31) -/

/-- R29, R30, R31, R98, R123, R133: from any state in which the units of the running command hold what those rules say,
every edge leaves a state of which the same is true: in a jump the accumulated transform, the current power and the delta
bits not yet consumed; in a bounded command the bound, the threshold and the last product, every earlier draw rejected;
in a draw the pipeline's registers, as far as it has come, `xs` and `rot` or the output of its old state. And what they
hold is the work of the command: the completing multiply-add of the jump unit gives the `STATE` that `exec` gives, a draw
that has passed every register leaves the pipeline as RANDOM's response or the bounded command's next draw, and once the
bounded-sampling unit has accepted a draw its registers give the response and `STATE` of `exec`.
The model's choices in it: at which edges the units are set up and iterate (log 19, log 14), at which edges a draw is
under way and the pipeline moves (log 20), where its registers stand (log 10), that `STATE` and `INC` are held meanwhile
(log 17), and what the units hold outside their use (log 8). -/
def Obligations.RunningUnitsHoldTheirWork : Prop :=
  (∀ s t : State, UnitInv s → step s = .next t → UnitInv t) ∧
  (∀ (s : State) (n : Nat), UnitInv s → s.phase = .exec →
    (s.unitRun = .running n → ∀ (d : Word64) (t : State), latched s = .advance d ∨ latched s = .retreat d →
      exec (latched s) s = .next t → t.state = (s.jumpRegs.run 64).apply s.state) ∧
    (latched s = .random → s.pipe.stages ≤ s.drawEdges →
      ∃ t, exec (latched s) s = .next t ∧ t.rspData = s.pipe.output s.state) ∧
    (s.unitRun = .running n → ∀ b : Word32, latched s = .bounded b ∨ latched s = .fastBounded b →
      s.pipe.stages ≤ s.drawEdges → drawnValue n s = nthDraw n s.state s.inc) ∧
    (s.unitRun = .finished n → ∀ (b : Word32) (t : State), b ≠ 0 →
      (latched s = .bounded b → exec (latched s) s = .next t →
        t.state = lcgSteps n s.state s.inc ∧
        t.rspData = nthDraw (n - 1) s.state s.inc % s.samplerRegs.bnd ∧
        s.samplerRegs.thr ≤ nthDraw (n - 1) s.state s.inc) ∧
      (latched s = .fastBounded b → exec (latched s) s = .next t →
        t.state = lcgSteps n s.state s.inc ∧ t.rspData = highHalf s.samplerRegs.prod ∧
        s.samplerRegs.prod = mul32x32 (nthDraw (n - 1) s.state s.inc) s.samplerRegs.bnd)))
end

