-- ==== Sys2Proof/Laws/Encoding.lean ====
section
/-! SUPPORT. What the fields of a command word are (R60), and the decoder on each code (R62). -/

namespace Sys2Proof

/-- The bits of a command word (R60). -/
theorem getLsbD_commandWord (op : Opcode) (b a : Word64) (i : Nat) :
    (commandWord op b a).getLsbD i =
      if i < 64 then a.getLsbD i else if i < 128 then b.getLsbD (i - 64) else op.getLsbD (i - 128) := by
  have h : commandWord op b a = (op ++ b ++ a : BitVec (3 + 64 + 64)) := rfl
  rw [h, BitVec.getLsbD_append, BitVec.getLsbD_append]
  by_cases h1 : i < 64
  · simp [h1]
  · by_cases h2 : i < 128
    · simp [h1, h2, show i - 64 < 64 by omega]
    · simp [h1, h2, show ¬ i - 64 < 64 by omega, show i - 64 - 64 = i - 128 by omega]

@[simp] theorem opField_commandWord (op : Opcode) (b a : Word64) : opField (commandWord op b a) = op := by
  apply BitVec.eq_of_getLsbD_eq
  intro i hi
  simp [opField, getLsbD_commandWord, hi, show ¬ 128 + i < 64 by omega]

@[simp] theorem bField_commandWord (op : Opcode) (b a : Word64) : bField (commandWord op b a) = b := by
  apply BitVec.eq_of_getLsbD_eq
  intro i hi
  simp [bField, getLsbD_commandWord, hi, show 64 + i < 128 by omega]

@[simp] theorem aField_commandWord (op : Opcode) (b a : Word64) : aField (commandWord op b a) = a := by
  apply BitVec.eq_of_getLsbD_eq
  intro i hi
  simp [aField, getLsbD_commandWord, hi]

/-- R60, R63: every command word is its three fields put together. -/
theorem commandWord_of_fields (cw : CommandWord) : commandWord (opField cw) (bField cw) (aField cw) = cw := by
  apply BitVec.eq_of_getLsbD_eq
  intro i hi
  rw [getLsbD_commandWord]
  simp only [opField, bField, aField, BitVec.getLsbD_extractLsb']
  by_cases h1 : i < 64
  · simp [h1]
  · by_cases h2 : i < 128
    · simp [h1, h2, show i - 64 < 64 by omega, show 64 + (i - 64) = i by omega]
    · simp [h1, h2, show i - 128 < 3 by omega, show 128 + (i - 128) = i by omega]

theorem boundField_zeroExtend (b : Word32) : boundField (b.setWidth 64) = b := by
  apply BitVec.eq_of_getLsbD_eq
  intro i hi
  simp [boundField, hi, show i < 64 by omega]

@[simp] theorem decodeFields_0 (a b : Word64) : decodeFields 0#3 a b = .init := rfl
@[simp] theorem decodeFields_1 (a b : Word64) : decodeFields 1#3 a b = .seed a b := rfl
@[simp] theorem decodeFields_2 (a b : Word64) : decodeFields 2#3 a b = .random := rfl
@[simp] theorem decodeFields_3 (a b : Word64) : decodeFields 3#3 a b = .bounded (boundField a) := rfl
@[simp] theorem decodeFields_4 (a b : Word64) : decodeFields 4#3 a b = .fastBounded (boundField a) := rfl
@[simp] theorem decodeFields_5 (a b : Word64) : decodeFields 5#3 a b = .advance a := rfl
@[simp] theorem decodeFields_6 (a b : Word64) : decodeFields 6#3 a b = .retreat a := rfl
@[simp] theorem decodeFields_7 (a b : Word64) : decodeFields 7#3 a b = .reserved := rfl

/-- R62: the eight cases of the field `OP`. -/
theorem opcode_cases (op : Opcode) :
    op = 0#3 ∨ op = 1#3 ∨ op = 2#3 ∨ op = 3#3 ∨ op = 4#3 ∨ op = 5#3 ∨ op = 6#3 ∨ op = 7#3 := by
  revert op; decide

/-- What the assembler accepts is well-formed, and its word is the encoding of the instruction named. -/
theorem Machine.assemble_ok {l : AsmLine} {cw : CommandWord} (h : Machine.assemble l = .ok cw) :
    l.wellFormed = true ∧ ∃ i, Machine.instrOfName l.name l.operands = .ok i ∧ cw = encode i := by
  unfold Machine.assemble Machine.assembleInstr at h
  by_cases hc : l.countOk = true <;> by_cases hr : l.rangeOk = true <;> simp only [hc, hr, if_true] at h
  · cases hi : Machine.instrOfName l.name l.operands with
    | ok i =>
      rw [hi] at h
      cases h
      exact ⟨by simp [AsmLine.wellFormed, hc, hr], i, rfl, rfl⟩
    | error e => rw [hi] at h; cases h
  all_goals cases h

end Sys2Proof
end

