-- ==== Sys2Proof/Laws/Jump.lean ====
section
/-! SUPPORT. The jump unit's loop, pass by pass, with the early stop and without (R131 to R133). -/

namespace Sys2Proof.Machine

@[simp] theorem load_accMult (c d : Word64) : (JumpRegs.load c d).accMult = 1#64 := rfl
@[simp] theorem load_accPlus (c d : Word64) : (JumpRegs.load c d).accPlus = 0#64 := rfl
@[simp] theorem load_curMult (c d : Word64) : (JumpRegs.load c d).curMult = MULT := rfl
@[simp] theorem load_curPlus (c d : Word64) : (JumpRegs.load c d).curPlus = c := rfl
@[simp] theorem load_deltaRem (c d : Word64) : (JumpRegs.load c d).deltaRem = d := rfl

theorem iterate_curMult (u : JumpRegs) : u.iterate.curMult = u.curMult * u.curMult := by
  simp only [JumpRegs.iterate, JumpRegs.square, JumpRegs.fold]; split <;> rfl

theorem iterate_curPlus (u : JumpRegs) : u.iterate.curPlus = (u.curMult + 1#64) * u.curPlus := by
  simp only [JumpRegs.iterate, JumpRegs.square, JumpRegs.fold]; split <;> rfl

theorem iterate_deltaRem (u : JumpRegs) : u.iterate.deltaRem = u.deltaRem >>> 1 := rfl

/-- The accumulated transform takes in the current power exactly where bit 0 of the remaining count is set, with both
sides from the old registers. -/
theorem iterate_acc (u : JumpRegs) :
    u.iterate.accMult = (if u.deltaRem.getLsbD 0 then u.accMult * u.curMult else u.accMult) ∧
    u.iterate.accPlus = (if u.deltaRem.getLsbD 0 then u.accPlus * u.curMult + u.curPlus else u.accPlus) := by
  simp only [JumpRegs.iterate, JumpRegs.square, JumpRegs.fold]
  split <;> exact ⟨rfl, rfl⟩

/-- With no count left a pass only squares: the final multiply-add does not see it. -/
theorem iterate_apply_of_done {u : JumpRegs} (h : u.deltaRem = 0#64) (s : Word64) : u.iterate.apply s = u.apply s := by
  simp [JumpRegs.apply, iterate_acc, h]

theorem iterate_deltaRem_of_done {u : JumpRegs} (h : u.deltaRem = 0#64) : u.iterate.deltaRem = 0#64 := by
  simp [iterate_deltaRem, h]

/-- With no count left the loop stops where it is. -/
theorem run_of_done {u : JumpRegs} (h : u.deltaRem = 0#64) (n : Nat) : JumpRegs.run n u = u := by
  cases n <;> simp [JumpRegs.run, h]

theorem run_succ_of_count {u : JumpRegs} (h : u.deltaRem ≠ 0#64) (n : Nat) :
    JumpRegs.run (n + 1) u = JumpRegs.run n u.iterate := by
  simp [JumpRegs.run, h]

/-- A loop of `m + n` passes is one of `m` and then one of `n`. -/
theorem run_add (m n : Nat) (u : JumpRegs) : JumpRegs.run (m + n) u = JumpRegs.run n (JumpRegs.run m u) := by
  induction m generalizing u with
  | zero => simp [JumpRegs.run]
  | succ m ih =>
    by_cases h : u.deltaRem = 0#64
    · simp [run_of_done h]
    · rw [Nat.add_right_comm, run_succ_of_count h, run_succ_of_count h, ih]

@[simp] theorem runFixed_zero (u : JumpRegs) : JumpRegs.runFixed 0 u = u := rfl

theorem runFixed_succ (n : Nat) (u : JumpRegs) : JumpRegs.runFixed (n + 1) u = JumpRegs.runFixed n u.iterate := rfl

/-- `m + n` iterations with no stop are `m` and then `n`. -/
theorem runFixed_add (m n : Nat) (u : JumpRegs) :
    JumpRegs.runFixed (m + n) u = JumpRegs.runFixed n (JumpRegs.runFixed m u) := by
  induction m generalizing u with
  | zero => simp
  | succ m ih => rw [Nat.add_right_comm, runFixed_succ, runFixed_succ, ih]

/-- The count not yet consumed after `n` iterations with no stop. -/
theorem runFixed_deltaRem (n : Nat) (u : JumpRegs) : (JumpRegs.runFixed n u).deltaRem = u.deltaRem >>> n := by
  induction n generalizing u with
  | zero => simp
  | succ n ih => rw [runFixed_succ, ih, iterate_deltaRem, ← BitVec.shiftRight_add, Nat.add_comm]

/-- The count not yet consumed after at most `n` iterations of the loop. -/
theorem run_deltaRem (n : Nat) (u : JumpRegs) : (JumpRegs.run n u).deltaRem = u.deltaRem >>> n := by
  induction n generalizing u with
  | zero => simp [JumpRegs.run]
  | succ n ih =>
    by_cases h : u.deltaRem = 0#64
    · rw [run_of_done h, h]; simp
    · rw [run_succ_of_count h, ih, iterate_deltaRem, ← BitVec.shiftRight_add, Nat.add_comm]

end Sys2Proof.Machine
end

