-- ==== Sys2Proof/Laws/State.lean ====
section
/-! SUPPORT. One lemma per field per update of State, so that no proof unfolds a record update. -/

namespace Sys2Proof.Machine

@[simp] theorem loadGenerator_state (x c : Word64) (s : State) : (loadGenerator x c s).state = x := rfl
@[simp] theorem loadGenerator_inc (x c : Word64) (s : State) : (loadGenerator x c s).inc = c := rfl
@[simp] theorem loadGenerator_phase (x c : Word64) (s : State) : (loadGenerator x c s).phase = s.phase := rfl
@[simp] theorem loadGenerator_rspData (x c : Word64) (s : State) : (loadGenerator x c s).rspData = s.rspData := rfl
@[simp] theorem loadGenerator_rspErr (x c : Word64) (s : State) : (loadGenerator x c s).rspErr = s.rspErr := rfl
@[simp] theorem loadGenerator_cmdOp (x c : Word64) (s : State) : (loadGenerator x c s).cmdOp = s.cmdOp := rfl
@[simp] theorem loadGenerator_cmdA (x c : Word64) (s : State) : (loadGenerator x c s).cmdA = s.cmdA := rfl
@[simp] theorem loadGenerator_cmdB (x c : Word64) (s : State) : (loadGenerator x c s).cmdB = s.cmdB := rfl
@[simp] theorem loadGenerator_latLeft (x c : Word64) (s : State) : (loadGenerator x c s).latLeft = s.latLeft := rfl
@[simp] theorem loadGenerator_jumpRegs (x c : Word64) (s : State) : (loadGenerator x c s).jumpRegs = s.jumpRegs := rfl
@[simp] theorem loadGenerator_samplerRegs (x c : Word64) (s : State) : (loadGenerator x c s).samplerRegs = s.samplerRegs := rfl
@[simp] theorem loadGenerator_unitRun (x c : Word64) (s : State) : (loadGenerator x c s).unitRun = s.unitRun := rfl
@[simp] theorem loadGenerator_pipe (x c : Word64) (s : State) : (loadGenerator x c s).pipe = s.pipe := rfl
@[simp] theorem loadGenerator_drawEdges (x c : Word64) (s : State) : (loadGenerator x c s).drawEdges = s.drawEdges := rfl
@[simp] theorem loadGenerator_script (x c : Word64) (s : State) : (loadGenerator x c s).script = s.script := rfl
@[simp] theorem loadGenerator_taken (x c : Word64) (s : State) : (loadGenerator x c s).taken = s.taken := rfl
@[simp] theorem loadGenerator_cycle (x c : Word64) (s : State) : (loadGenerator x c s).cycle = s.cycle := rfl

@[simp] theorem loadState_state (x : Word64) (s : State) : (loadState x s).state = x := rfl
@[simp] theorem loadState_inc (x : Word64) (s : State) : (loadState x s).inc = s.inc := rfl
@[simp] theorem loadState_phase (x : Word64) (s : State) : (loadState x s).phase = s.phase := rfl
@[simp] theorem loadState_rspData (x : Word64) (s : State) : (loadState x s).rspData = s.rspData := rfl
@[simp] theorem loadState_rspErr (x : Word64) (s : State) : (loadState x s).rspErr = s.rspErr := rfl
@[simp] theorem loadState_cmdOp (x : Word64) (s : State) : (loadState x s).cmdOp = s.cmdOp := rfl
@[simp] theorem loadState_cmdA (x : Word64) (s : State) : (loadState x s).cmdA = s.cmdA := rfl
@[simp] theorem loadState_cmdB (x : Word64) (s : State) : (loadState x s).cmdB = s.cmdB := rfl
@[simp] theorem loadState_latLeft (x : Word64) (s : State) : (loadState x s).latLeft = s.latLeft := rfl
@[simp] theorem loadState_jumpRegs (x : Word64) (s : State) : (loadState x s).jumpRegs = s.jumpRegs := rfl
@[simp] theorem loadState_samplerRegs (x : Word64) (s : State) : (loadState x s).samplerRegs = s.samplerRegs := rfl
@[simp] theorem loadState_unitRun (x : Word64) (s : State) : (loadState x s).unitRun = s.unitRun := rfl
@[simp] theorem loadState_pipe (x : Word64) (s : State) : (loadState x s).pipe = s.pipe := rfl
@[simp] theorem loadState_drawEdges (x : Word64) (s : State) : (loadState x s).drawEdges = s.drawEdges := rfl
@[simp] theorem loadState_script (x : Word64) (s : State) : (loadState x s).script = s.script := rfl
@[simp] theorem loadState_taken (x : Word64) (s : State) : (loadState x s).taken = s.taken := rfl
@[simp] theorem loadState_cycle (x : Word64) (s : State) : (loadState x s).cycle = s.cycle := rfl

@[simp] theorem respond_state (d : Word32) (e : Status) (s : State) : (respond d e s).state = s.state := rfl
@[simp] theorem respond_inc (d : Word32) (e : Status) (s : State) : (respond d e s).inc = s.inc := rfl
@[simp] theorem respond_phase (d : Word32) (e : Status) (s : State) : (respond d e s).phase = .resp := rfl
@[simp] theorem respond_rspData (d : Word32) (e : Status) (s : State) : (respond d e s).rspData = d := rfl
@[simp] theorem respond_rspErr (d : Word32) (e : Status) (s : State) : (respond d e s).rspErr = errBit e := rfl
@[simp] theorem respond_cmdOp (d : Word32) (e : Status) (s : State) : (respond d e s).cmdOp = s.cmdOp := rfl
@[simp] theorem respond_cmdA (d : Word32) (e : Status) (s : State) : (respond d e s).cmdA = s.cmdA := rfl
@[simp] theorem respond_cmdB (d : Word32) (e : Status) (s : State) : (respond d e s).cmdB = s.cmdB := rfl
@[simp] theorem respond_latLeft (d : Word32) (e : Status) (s : State) : (respond d e s).latLeft = s.latLeft := rfl
@[simp] theorem respond_jumpRegs (d : Word32) (e : Status) (s : State) : (respond d e s).jumpRegs = s.jumpRegs := rfl
@[simp] theorem respond_samplerRegs (d : Word32) (e : Status) (s : State) : (respond d e s).samplerRegs = s.samplerRegs := rfl
@[simp] theorem respond_unitRun (d : Word32) (e : Status) (s : State) : (respond d e s).unitRun = s.unitRun := rfl
@[simp] theorem respond_pipe (d : Word32) (e : Status) (s : State) : (respond d e s).pipe = s.pipe := rfl
@[simp] theorem respond_drawEdges (d : Word32) (e : Status) (s : State) : (respond d e s).drawEdges = s.drawEdges := rfl
@[simp] theorem respond_script (d : Word32) (e : Status) (s : State) : (respond d e s).script = s.script := rfl
@[simp] theorem respond_taken (d : Word32) (e : Status) (s : State) : (respond d e s).taken = s.taken := rfl
@[simp] theorem respond_cycle (d : Word32) (e : Status) (s : State) : (respond d e s).cycle = s.cycle := rfl

@[simp] theorem tick_state (s : State) : (tick s).state = s.state := rfl
@[simp] theorem tick_inc (s : State) : (tick s).inc = s.inc := rfl
@[simp] theorem tick_phase (s : State) : (tick s).phase = s.phase := rfl
@[simp] theorem tick_rspData (s : State) : (tick s).rspData = s.rspData := rfl
@[simp] theorem tick_rspErr (s : State) : (tick s).rspErr = s.rspErr := rfl
@[simp] theorem tick_cmdOp (s : State) : (tick s).cmdOp = s.cmdOp := rfl
@[simp] theorem tick_cmdA (s : State) : (tick s).cmdA = s.cmdA := rfl
@[simp] theorem tick_cmdB (s : State) : (tick s).cmdB = s.cmdB := rfl
@[simp] theorem tick_latLeft (s : State) : (tick s).latLeft = s.latLeft := rfl
@[simp] theorem tick_jumpRegs (s : State) : (tick s).jumpRegs = s.jumpRegs := rfl
@[simp] theorem tick_samplerRegs (s : State) : (tick s).samplerRegs = s.samplerRegs := rfl
@[simp] theorem tick_unitRun (s : State) : (tick s).unitRun = s.unitRun := rfl
@[simp] theorem tick_pipe (s : State) : (tick s).pipe = s.pipe := rfl
@[simp] theorem tick_drawEdges (s : State) : (tick s).drawEdges = s.drawEdges := rfl
@[simp] theorem tick_script (s : State) : (tick s).script = s.script.tail := rfl
@[simp] theorem tick_taken (s : State) : (tick s).taken = s.taken := rfl
@[simp] theorem tick_cycle (s : State) : (tick s).cycle = s.cycle + 1 := rfl

@[simp] theorem progress_state (s : State) : (progress s).state = s.state := rfl
@[simp] theorem progress_inc (s : State) : (progress s).inc = s.inc := rfl
@[simp] theorem progress_phase (s : State) : (progress s).phase = s.phase := rfl
@[simp] theorem progress_rspData (s : State) : (progress s).rspData = s.rspData := rfl
@[simp] theorem progress_rspErr (s : State) : (progress s).rspErr = s.rspErr := rfl
@[simp] theorem progress_cmdOp (s : State) : (progress s).cmdOp = s.cmdOp := rfl
@[simp] theorem progress_cmdA (s : State) : (progress s).cmdA = s.cmdA := rfl
@[simp] theorem progress_cmdB (s : State) : (progress s).cmdB = s.cmdB := rfl
@[simp] theorem progress_latLeft (s : State) : (progress s).latLeft = s.latLeft - 1 := rfl
@[simp] theorem progress_script (s : State) : (progress s).script = s.script := rfl
@[simp] theorem progress_taken (s : State) : (progress s).taken = s.taken := rfl
@[simp] theorem progress_cycle (s : State) : (progress s).cycle = s.cycle := rfl

@[simp] theorem progress_jumpRegs (s : State) : (progress s).jumpRegs = (unitEdge (latched s) s).jumpRegs := rfl
@[simp] theorem progress_samplerRegs (s : State) : (progress s).samplerRegs = (unitEdge (latched s) s).samplerRegs := rfl
@[simp] theorem progress_unitRun (s : State) : (progress s).unitRun = (unitEdge (latched s) s).unitRun := rfl
@[simp] theorem progress_pipe (s : State) : (progress s).pipe = (unitEdge (latched s) s).pipe := rfl
@[simp] theorem progress_drawEdges (s : State) : (progress s).drawEdges = (unitEdge (latched s) s).drawEdges := rfl

@[simp] theorem completing_state (s : State) : (completing s).state = s.state := rfl
@[simp] theorem completing_inc (s : State) : (completing s).inc = s.inc := rfl
@[simp] theorem completing_phase (s : State) : (completing s).phase = s.phase := rfl
@[simp] theorem completing_rspData (s : State) : (completing s).rspData = s.rspData := rfl
@[simp] theorem completing_rspErr (s : State) : (completing s).rspErr = s.rspErr := rfl
@[simp] theorem completing_cmdOp (s : State) : (completing s).cmdOp = s.cmdOp := rfl
@[simp] theorem completing_cmdA (s : State) : (completing s).cmdA = s.cmdA := rfl
@[simp] theorem completing_cmdB (s : State) : (completing s).cmdB = s.cmdB := rfl
@[simp] theorem completing_latLeft (s : State) : (completing s).latLeft = s.latLeft - 1 := rfl
@[simp] theorem completing_jumpRegs (s : State) : (completing s).jumpRegs = freeJumpRegs s.cycle := rfl
@[simp] theorem completing_samplerRegs (s : State) : (completing s).samplerRegs = freeSamplerRegs s.cycle := rfl
@[simp] theorem completing_unitRun (s : State) : (completing s).unitRun = .notSetUp := rfl
@[simp] theorem completing_pipe (s : State) : (completing s).pipe = freePipe s.cycle := rfl
@[simp] theorem completing_drawEdges (s : State) : (completing s).drawEdges = 0 := rfl
@[simp] theorem completing_script (s : State) : (completing s).script = s.script := rfl
@[simp] theorem completing_taken (s : State) : (completing s).taken = s.taken := rfl
@[simp] theorem completing_cycle (s : State) : (completing s).cycle = s.cycle := rfl

@[simp] theorem resetEdge_state (s : State) : (resetEdge s).state = DEFAULT_STATE := rfl
@[simp] theorem resetEdge_inc (s : State) : (resetEdge s).inc = DEFAULT_INC := rfl
@[simp] theorem resetEdge_phase (s : State) : (resetEdge s).phase = .idle := rfl
@[simp] theorem resetEdge_rspData (s : State) : (resetEdge s).rspData = 0 := rfl
@[simp] theorem resetEdge_rspErr (s : State) : (resetEdge s).rspErr = false := rfl
@[simp] theorem resetEdge_cmdOp (s : State) : (resetEdge s).cmdOp = 0 := rfl
@[simp] theorem resetEdge_cmdA (s : State) : (resetEdge s).cmdA = 0 := rfl
@[simp] theorem resetEdge_cmdB (s : State) : (resetEdge s).cmdB = 0 := rfl
@[simp] theorem resetEdge_latLeft (s : State) : (resetEdge s).latLeft = 0 := rfl
@[simp] theorem resetEdge_jumpRegs (s : State) : (resetEdge s).jumpRegs = State.reset.jumpRegs := rfl
@[simp] theorem resetEdge_samplerRegs (s : State) : (resetEdge s).samplerRegs = State.reset.samplerRegs := rfl
@[simp] theorem resetEdge_unitRun (s : State) : (resetEdge s).unitRun = .notSetUp := rfl
@[simp] theorem resetEdge_pipe (s : State) : (resetEdge s).pipe = State.reset.pipe := rfl
@[simp] theorem resetEdge_drawEdges (s : State) : (resetEdge s).drawEdges = 0 := rfl
@[simp] theorem resetEdge_script (s : State) : (resetEdge s).script = s.script := rfl
@[simp] theorem resetEdge_taken (s : State) : (resetEdge s).taken = s.taken := rfl
@[simp] theorem resetEdge_cycle (s : State) : (resetEdge s).cycle = s.cycle := rfl

@[simp] theorem acceptCommand_state (p : Pins) (s : State) : (acceptCommand p s).state = s.state := rfl
@[simp] theorem acceptCommand_inc (p : Pins) (s : State) : (acceptCommand p s).inc = s.inc := rfl
@[simp] theorem acceptCommand_phase (p : Pins) (s : State) : (acceptCommand p s).phase = .exec := rfl
@[simp] theorem acceptCommand_rspData (p : Pins) (s : State) : (acceptCommand p s).rspData = s.rspData := rfl
@[simp] theorem acceptCommand_rspErr (p : Pins) (s : State) : (acceptCommand p s).rspErr = s.rspErr := rfl
@[simp] theorem acceptCommand_cmdOp (p : Pins) (s : State) : (acceptCommand p s).cmdOp = p.cmdOp := rfl
@[simp] theorem acceptCommand_cmdA (p : Pins) (s : State) : (acceptCommand p s).cmdA = p.cmdA := rfl
@[simp] theorem acceptCommand_cmdB (p : Pins) (s : State) : (acceptCommand p s).cmdB = p.cmdB := rfl
@[simp] theorem acceptCommand_latLeft (p : Pins) (s : State) : (acceptCommand p s).latLeft = Config.latency (decodeFields p.cmdOp p.cmdA p.cmdB) s.state s.inc := rfl
@[simp] theorem acceptCommand_jumpRegs (p : Pins) (s : State) : (acceptCommand p s).jumpRegs = s.jumpRegs := rfl
@[simp] theorem acceptCommand_samplerRegs (p : Pins) (s : State) : (acceptCommand p s).samplerRegs = s.samplerRegs := rfl
@[simp] theorem acceptCommand_unitRun (p : Pins) (s : State) : (acceptCommand p s).unitRun = .notSetUp := rfl
@[simp] theorem acceptCommand_pipe (p : Pins) (s : State) : (acceptCommand p s).pipe = s.pipe := rfl
@[simp] theorem acceptCommand_drawEdges (p : Pins) (s : State) : (acceptCommand p s).drawEdges = 0 := rfl
@[simp] theorem acceptCommand_script (p : Pins) (s : State) : (acceptCommand p s).script = s.script := rfl
@[simp] theorem acceptCommand_taken (p : Pins) (s : State) : (acceptCommand p s).taken = s.taken := rfl
@[simp] theorem acceptCommand_cycle (p : Pins) (s : State) : (acceptCommand p s).cycle = s.cycle := rfl

@[simp] theorem takeResponse_state (s : State) : (takeResponse s).state = s.state := rfl
@[simp] theorem takeResponse_inc (s : State) : (takeResponse s).inc = s.inc := rfl
@[simp] theorem takeResponse_phase (s : State) : (takeResponse s).phase = .idle := rfl
@[simp] theorem takeResponse_rspData (s : State) : (takeResponse s).rspData = s.rspData := rfl
@[simp] theorem takeResponse_rspErr (s : State) : (takeResponse s).rspErr = s.rspErr := rfl
@[simp] theorem takeResponse_cmdOp (s : State) : (takeResponse s).cmdOp = s.cmdOp := rfl
@[simp] theorem takeResponse_cmdA (s : State) : (takeResponse s).cmdA = s.cmdA := rfl
@[simp] theorem takeResponse_cmdB (s : State) : (takeResponse s).cmdB = s.cmdB := rfl
@[simp] theorem takeResponse_latLeft (s : State) : (takeResponse s).latLeft = s.latLeft := rfl
@[simp] theorem takeResponse_jumpRegs (s : State) : (takeResponse s).jumpRegs = s.jumpRegs := rfl
@[simp] theorem takeResponse_samplerRegs (s : State) : (takeResponse s).samplerRegs = s.samplerRegs := rfl
@[simp] theorem takeResponse_unitRun (s : State) : (takeResponse s).unitRun = s.unitRun := rfl
@[simp] theorem takeResponse_pipe (s : State) : (takeResponse s).pipe = s.pipe := rfl
@[simp] theorem takeResponse_drawEdges (s : State) : (takeResponse s).drawEdges = s.drawEdges := rfl
@[simp] theorem takeResponse_script (s : State) : (takeResponse s).script = s.script := rfl
@[simp] theorem takeResponse_taken (s : State) : (takeResponse s).taken = s.taken ++ [heldResponse s] := rfl
@[simp] theorem takeResponse_cycle (s : State) : (takeResponse s).cycle = s.cycle := rfl

@[simp] theorem draw_snd_state (s : State) : ((draw s).2).state = lcgStep s.state s.inc := rfl
@[simp] theorem draw_snd_inc (s : State) : ((draw s).2).inc = s.inc := rfl
@[simp] theorem draw_snd_phase (s : State) : ((draw s).2).phase = s.phase := rfl
@[simp] theorem draw_snd_rspData (s : State) : ((draw s).2).rspData = s.rspData := rfl
@[simp] theorem draw_snd_rspErr (s : State) : ((draw s).2).rspErr = s.rspErr := rfl
@[simp] theorem draw_snd_cmdOp (s : State) : ((draw s).2).cmdOp = s.cmdOp := rfl
@[simp] theorem draw_snd_cmdA (s : State) : ((draw s).2).cmdA = s.cmdA := rfl
@[simp] theorem draw_snd_cmdB (s : State) : ((draw s).2).cmdB = s.cmdB := rfl
@[simp] theorem draw_snd_latLeft (s : State) : ((draw s).2).latLeft = s.latLeft := rfl
@[simp] theorem draw_snd_jumpRegs (s : State) : ((draw s).2).jumpRegs = s.jumpRegs := rfl
@[simp] theorem draw_snd_samplerRegs (s : State) : ((draw s).2).samplerRegs = s.samplerRegs := rfl
@[simp] theorem draw_snd_unitRun (s : State) : ((draw s).2).unitRun = s.unitRun := rfl
@[simp] theorem draw_snd_pipe (s : State) : ((draw s).2).pipe = s.pipe := rfl
@[simp] theorem draw_snd_drawEdges (s : State) : ((draw s).2).drawEdges = s.drawEdges := rfl
@[simp] theorem draw_snd_script (s : State) : ((draw s).2).script = s.script := rfl
@[simp] theorem draw_snd_taken (s : State) : ((draw s).2).taken = s.taken := rfl
@[simp] theorem draw_snd_cycle (s : State) : ((draw s).2).cycle = s.cycle := rfl

@[simp] theorem withAccepted_state (cw : CommandWord) (s : State) : (withAccepted s cw).state = s.state := rfl
@[simp] theorem withAccepted_inc (cw : CommandWord) (s : State) : (withAccepted s cw).inc = s.inc := rfl
@[simp] theorem withAccepted_phase (cw : CommandWord) (s : State) : (withAccepted s cw).phase = .exec := rfl
@[simp] theorem withAccepted_rspData (cw : CommandWord) (s : State) : (withAccepted s cw).rspData = s.rspData := rfl
@[simp] theorem withAccepted_rspErr (cw : CommandWord) (s : State) : (withAccepted s cw).rspErr = s.rspErr := rfl
@[simp] theorem withAccepted_cmdOp (cw : CommandWord) (s : State) : (withAccepted s cw).cmdOp = opField cw := rfl
@[simp] theorem withAccepted_cmdA (cw : CommandWord) (s : State) : (withAccepted s cw).cmdA = aField cw := rfl
@[simp] theorem withAccepted_cmdB (cw : CommandWord) (s : State) : (withAccepted s cw).cmdB = bField cw := rfl
@[simp] theorem withAccepted_latLeft (cw : CommandWord) (s : State) : (withAccepted s cw).latLeft = 1 := rfl
@[simp] theorem withAccepted_jumpRegs (cw : CommandWord) (s : State) : (withAccepted s cw).jumpRegs = s.jumpRegs := rfl
@[simp] theorem withAccepted_samplerRegs (cw : CommandWord) (s : State) : (withAccepted s cw).samplerRegs = s.samplerRegs := rfl
@[simp] theorem withAccepted_unitRun (cw : CommandWord) (s : State) : (withAccepted s cw).unitRun = .notSetUp := rfl
@[simp] theorem withAccepted_pipe (cw : CommandWord) (s : State) : (withAccepted s cw).pipe = s.pipe := rfl
@[simp] theorem withAccepted_drawEdges (cw : CommandWord) (s : State) : (withAccepted s cw).drawEdges = 0 := rfl
@[simp] theorem withAccepted_script (cw : CommandWord) (s : State) : (withAccepted s cw).script = withoutReset s.script := rfl
@[simp] theorem withAccepted_taken (cw : CommandWord) (s : State) : (withAccepted s cw).taken = s.taken := rfl
@[simp] theorem withAccepted_cycle (cw : CommandWord) (s : State) : (withAccepted s cw).cycle = s.cycle := rfl


@[simp] theorem withUnits_state (u : Units) (s : State) : (withUnits u s).state = s.state := rfl
@[simp] theorem withUnits_inc (u : Units) (s : State) : (withUnits u s).inc = s.inc := rfl
@[simp] theorem withUnits_phase (u : Units) (s : State) : (withUnits u s).phase = s.phase := rfl
@[simp] theorem withUnits_rspData (u : Units) (s : State) : (withUnits u s).rspData = s.rspData := rfl
@[simp] theorem withUnits_rspErr (u : Units) (s : State) : (withUnits u s).rspErr = s.rspErr := rfl
@[simp] theorem withUnits_cmdOp (u : Units) (s : State) : (withUnits u s).cmdOp = s.cmdOp := rfl
@[simp] theorem withUnits_cmdA (u : Units) (s : State) : (withUnits u s).cmdA = s.cmdA := rfl
@[simp] theorem withUnits_cmdB (u : Units) (s : State) : (withUnits u s).cmdB = s.cmdB := rfl
@[simp] theorem withUnits_latLeft (u : Units) (s : State) : (withUnits u s).latLeft = s.latLeft := rfl
@[simp] theorem withUnits_jumpRegs (u : Units) (s : State) : (withUnits u s).jumpRegs = u.jumpRegs := rfl
@[simp] theorem withUnits_samplerRegs (u : Units) (s : State) : (withUnits u s).samplerRegs = u.samplerRegs := rfl
@[simp] theorem withUnits_unitRun (u : Units) (s : State) : (withUnits u s).unitRun = u.unitRun := rfl
@[simp] theorem withUnits_pipe (u : Units) (s : State) : (withUnits u s).pipe = u.pipe := rfl
@[simp] theorem withUnits_drawEdges (u : Units) (s : State) : (withUnits u s).drawEdges = u.drawEdges := rfl
@[simp] theorem withUnits_script (u : Units) (s : State) : (withUnits u s).script = s.script := rfl
@[simp] theorem withUnits_taken (u : Units) (s : State) : (withUnits u s).taken = s.taken := rfl
@[simp] theorem withUnits_cycle (u : Units) (s : State) : (withUnits u s).cycle = s.cycle := rfl

@[simp] theorem draw_fst (s : State) : (draw s).1 = perm s.state := rfl

@[simp] theorem freePipe_between_length (cycle : Nat) :
    (freePipe cycle).between.length = Config.permStagesBetween := by simp [freePipe]

@[simp] theorem freePipe_after_length (cycle : Nat) :
    (freePipe cycle).after.length = Config.permStagesAfter := by simp [freePipe]

@[simp] theorem errBit_completed : errBit .completed = false := rfl

@[simp] theorem errBit_reservedOpcode : errBit .reservedOpcode = true := rfl

@[simp] theorem pins_nil (s : State) (h : s.script = []) : s.pins = Pins.quiet := by simp [State.pins, h]

@[simp] theorem pins_cons (s : State) (p : Pins) (rest : List Pins) (h : s.script = p :: rest) : s.pins = p := by
  simp [State.pins, h]

end Sys2Proof.Machine
end

