-- ==== Sys2Proof/Laws/Ops.lean ====
section
/-! SUPPORT. What each shared operation can do, once. -/

namespace Sys2Proof.Machine

@[simp] theorem lcgSteps_zero (s c : Word64) : lcgSteps 0 s c = s := rfl

theorem lcgSteps_succ (n : Nat) (s c : Word64) : lcgSteps (n + 1) s c = lcgSteps n (lcgStep s c) c := rfl

theorem lcgSteps_add (m n : Nat) (s c : Word64) : lcgSteps (m + n) s c = lcgSteps n (lcgSteps m s c) c := by
  induction m generalizing s with
  | zero => simp
  | succ m ih => rw [Nat.add_right_comm, lcgSteps_succ, lcgSteps_succ, ih]

/-- One step more at the end. -/
theorem lcgSteps_last (n : Nat) (s c : Word64) : lcgSteps (n + 1) s c = lcgStep (lcgSteps n s c) c := by
  rw [lcgSteps_add]; rfl

/-- Draw number `k + 1` is draw number `k` of the state after one step. -/
theorem nthDraw_succ (k : Nat) (s c : Word64) : nthDraw (k + 1) s c = nthDraw k (lcgStep s c) c := rfl

/-- The rejection loop answers exactly where one of its draws is accepted: with the first such draw, and with the
state that many steps on. -/
theorem drawUntil_some {accept : Word32 → Bool} {fuel : Nat} {s t : State} {r : Word32}
    (h : drawUntil accept fuel s = some (r, t)) :
    ∃ k < fuel, (∀ j < k, accept (nthDraw j s.state s.inc) = false) ∧
      accept (nthDraw k s.state s.inc) = true ∧ r = nthDraw k s.state s.inc ∧
      t = { s with state := lcgSteps (k + 1) s.state s.inc } := by
  induction fuel generalizing s with
  | zero => simp [drawUntil] at h
  | succ fuel ih =>
    unfold drawUntil at h
    split at h
    · rename_i hacc
      cases h
      exact ⟨0, by omega, by simp, hacc, rfl, rfl⟩
    · rename_i hrej
      obtain ⟨k, hk, hbelow, hat, hr, ht⟩ := ih h
      refine ⟨k + 1, by omega, ?_, hat, hr, ht⟩
      intro j hj
      cases j with
      | zero => simpa [nthDraw] using hrej
      | succ j => exact hbelow j (by omega)

/-- The rejection loop answers nothing exactly where every draw is rejected. -/
theorem drawUntil_none {accept : Word32 → Bool} {fuel : Nat} {s : State} :
    drawUntil accept fuel s = none ↔ ∀ j < fuel, accept (nthDraw j s.state s.inc) = false := by
  induction fuel generalizing s with
  | zero => simp [drawUntil]
  | succ fuel ih =>
    unfold drawUntil
    split
    · rename_i hacc
      simp only [reduceCtorEq, false_iff, not_forall]
      exact ⟨0, by omega, by simpa [nthDraw] using hacc⟩
    · rename_i hrej
      rw [ih]
      constructor
      · intro h j hj
        cases j with
        | zero => simpa [nthDraw] using hrej
        | succ j => exact h j (by omega)
      · intro h j hj
        exact h (j + 1) (by omega)

/-- A bounded command answers with an accepted draw or with the model's one fault. -/
theorem finishSampling_next {f : Word32 → Word32} {o : Option (Word32 × State)} {t : State}
    (h : finishSampling f o = .next t) : ∃ r s, o = some (r, s) ∧ t = respond (f r) .completed s := by
  cases o with
  | none => simp [finishSampling] at h
  | some p => cases h; exact ⟨p.1, p.2, rfl, rfl⟩

theorem finishSampling_fault {f : Word32 → Word32} {o : Option (Word32 × State)} {e : Fault}
    (h : finishSampling f o = .fault e) : o = none ∧ e = .samplingNeverAccepts := by
  cases o with
  | none => cases h; exact ⟨rfl, rfl⟩
  | some p => simp [finishSampling] at h

/-- `thresh32(b)` lies below `b` (R110), as a bit vector. -/
theorem thresh32_lt {b : Word32} (hb : b ≠ 0) : thresh32 b < b := by
  have h0 : 0 < b.toNat := by
    rcases Nat.eq_zero_or_pos b.toNat with h | h
    · exact absurd (BitVec.eq_of_toNat_eq (by simpa using h)) hb
    · exact h
  rw [BitVec.lt_def, thresh32, BitVec.toNat_umod]
  exact Nat.mod_lt _ h0

theorem lt_of_rejects {x y : Word32} (h : (!decide (x < y)) = false) : x < y := by
  cases hd : decide (x < y) with
  | true => exact of_decide_eq_true hd
  | false => simp [hd] at h

theorem not_lt_of_rejects {x y : Word32} (h : (!decide (x < y)) = true) : ¬ x < y := by
  cases hd : decide (x < y) with
  | true => simp [hd] at h
  | false => exact of_decide_eq_false hd

/-- What FAST_BOUNDED's draws can be, by the test that ends them (R115, R116): the first draw whose product's low half
is not below the threshold. -/
theorem fastDraws_some {bound r : Word32} {s t : State} (hb : bound ≠ 0)
    (h : fastDraws bound s = some (r, t)) :
    ∃ k < maxDraws, (∀ j < k, productLow bound (nthDraw j s.state s.inc) < thresh32 bound) ∧
      ¬ productLow bound (nthDraw k s.state s.inc) < thresh32 bound ∧ r = nthDraw k s.state s.inc ∧
      t = { s with state := lcgSteps (k + 1) s.state s.inc } := by
  have hpos : 0 < maxDraws := by decide
  unfold fastDraws at h
  split at h
  · split at h
    · rename_i hrej
      obtain ⟨k, hk, hbelow, hat, hr, ht⟩ := drawUntil_some h
      refine ⟨k + 1, by omega, ?_, not_lt_of_rejects hat, hr, ht⟩
      intro j hj
      cases j with
      | zero => exact hrej
      | succ j => exact lt_of_rejects (hbelow j (by omega))
    · rename_i hrej
      cases h
      exact ⟨0, hpos, by simp, hrej, rfl, rfl⟩
  · rename_i hge
    cases h
    refine ⟨0, hpos, by simp, ?_, rfl, rfl⟩
    intro hlt
    exact hge (BitVec.lt_trans hlt (thresh32_lt hb))

/-- FAST_BOUNDED finds no draw exactly where every draw of a full period falls below the threshold. -/
theorem fastDraws_none {bound : Word32} {s : State}
    (h : fastDraws bound s = none) :
    ∀ j < maxDraws, productLow bound (nthDraw j s.state s.inc) < thresh32 bound := by
  unfold fastDraws at h
  split at h
  · split at h
    · rename_i hrej
      rw [drawUntil_none] at h
      intro j hj
      cases j with
      | zero => exact hrej
      | succ j => exact lt_of_rejects (h j (by omega))
    · simp at h
  · simp at h

end Sys2Proof.Machine
end

