-- ==== Sys2Proof/Laws/PerInstr.lean ====
section
/-! SUPPORT. The family Fields: what each instruction's command word holds in its three fields (R60, R62, R70). -/

namespace Sys2Proof

/-- The word of `i` carries the code of its row and its operands, and names no operand outside `A` and `B`. -/
def Laws.Fields.Statement (i : Instr) : Prop :=
  opField (encode i) = opcodeOf i ∧ aField (encode i) = aOperand i ∧ bField (encode i) = bOperand i

/-- The fields of any instruction's word. -/
theorem fields_of_encode (i : Instr) : Laws.Fields.Statement i :=
  ⟨opField_commandWord _ _ _, aField_commandWord _ _ _, bField_commandWord _ _ _⟩

theorem Laws.Fields.init : Laws.Fields.Statement .init := fields_of_encode _

theorem Laws.Fields.seed (initstate sequence : Word64) : Laws.Fields.Statement (.seed initstate sequence) :=
  fields_of_encode _

theorem Laws.Fields.random : Laws.Fields.Statement .random := fields_of_encode _

theorem Laws.Fields.bounded (bound : Word32) : Laws.Fields.Statement (.bounded bound) := fields_of_encode _

theorem Laws.Fields.fastBounded (bound : Word32) : Laws.Fields.Statement (.fastBounded bound) := fields_of_encode _

theorem Laws.Fields.advance (delta : Word64) : Laws.Fields.Statement (.advance delta) := fields_of_encode _

theorem Laws.Fields.retreat (delta : Word64) : Laws.Fields.Statement (.retreat delta) := fields_of_encode _

theorem Laws.Fields.reserved : Laws.Fields.Statement .reserved := fields_of_encode _

end Sys2Proof
end

