-- ==== Sys2Proof/Laws/Pipeline.lean ====
section
/-! SUPPORT. The permutation pipeline, edge by edge (R31, R98). -/

namespace Sys2Proof.Machine

@[simp] theorem shiftStages_nil {α : Type} (x : α) : shiftStages x [] = (x, []) := rfl

/-- The values of a chain of registers and the one that enters are the values after the edge and the one that leaves. -/
theorem shiftStages_append {α : Type} (x : α) (l : List α) :
    (shiftStages x l).2 ++ [(shiftStages x l).1] = x :: l := by
  induction l generalizing x with
  | nil => rfl
  | cons r rest ih => simp [shiftStages, ih]

@[simp] theorem shiftStages_length {α : Type} (x : α) (l : List α) : (shiftStages x l).2.length = l.length := by
  induction l generalizing x with
  | nil => rfl
  | cons r rest ih => simp [shiftStages, ih]

/-- Where the first `m` registers hold `x`, one more does after an edge at which `x` enters. -/
theorem shiftStages_take {α : Type} {x : α} {l : List α} {m : Nat} (h : ∀ y ∈ l.take m, y = x) :
    ∀ y ∈ (shiftStages x l).2.take (m + 1), y = x := by
  induction l generalizing m with
  | nil => simp
  | cons r rest ih =>
    intro y hy
    rw [shiftStages, List.take_succ_cons, List.mem_cons] at hy
    rcases hy with rfl | hy
    · rfl
    · cases m with
      | zero => simp at hy
      | succ m =>
        obtain rfl : r = x := h r (by simp)
        exact ih (fun z hz => h z (by simp [hz])) y hy

/-- Where all registers hold what enters, that is what leaves. -/
theorem shiftStages_out {α : Type} {x : α} {l : List α} (h : ∀ y ∈ l, y = x) : (shiftStages x l).1 = x := by
  induction l with
  | nil => rfl
  | cons r rest ih =>
    obtain rfl : r = x := h r (by simp)
    exact ih fun y hy => h y (by simp [hy])

@[simp] theorem clock_between_length (old : Word64) (p : PermPipe) :
    (p.clock old).between.length = p.between.length := by simp [PermPipe.clock, PermPipe.clockBetween]

@[simp] theorem clock_after_length (old : Word64) (p : PermPipe) :
    (p.clock old).after.length = p.after.length := by simp [PermPipe.clock, PermPipe.clockAfter]

@[simp] theorem clock_stages (old : Word64) (p : PermPipe) : (p.clock old).stages = p.stages := by
  simp [PermPipe.stages]

/-- A draw that has not entered holds no register. -/
theorem pipeHolds_zero (old : Word64) (p : PermPipe) : PipeHolds 0 old p := ⟨by simp, by simp⟩

theorem clockBetween_out {m : Nat} {old : Word64} {p : PermPipe} (h : PipeHolds m old p) (hm : p.between.length ≤ m) :
    (p.clockBetween old).1 = permStage1 old :=
  shiftStages_out fun x hx => h.between x (by rwa [List.take_of_length_le hm])

/-- An edge takes a draw one register further. -/
theorem pipeHolds_clock {m : Nat} {old : Word64} {p : PermPipe} (h : PipeHolds m old p) :
    PipeHolds (m + 1) old (p.clock old) := by
  refine ⟨shiftStages_take h.between, ?_⟩
  intro y hy
  rw [clock_between_length] at hy
  by_cases hm : p.between.length ≤ m
  · rw [Nat.sub_add_comm hm] at hy
    simp only [PermPipe.clock, PermPipe.clockAfter, clockBetween_out h hm] at hy
    exact shiftStages_take h.after y hy
  · rw [Nat.sub_eq_zero_of_le (by omega)] at hy
    simp at hy

/-- What leaves once a draw has passed every register: its old state through both stages. -/
theorem output_of_holds {m : Nat} {old : Word64} {p : PermPipe} (h : PipeHolds m old p) (hm : p.stages ≤ m) :
    p.output old = permStage2 (permStage1 old) := by
  unfold PermPipe.stages at hm
  unfold PermPipe.output PermPipe.clockAfter
  rw [clockBetween_out h (by omega)]
  exact shiftStages_out fun y hy => h.after y (by rwa [List.take_of_length_le (by omega)])

@[simp] theorem permStages_split : Config.permStagesBetween + Config.permStagesAfter = Config.permStages := by
  unfold Config.permStagesAfter Config.permStagesBetween
  omega

end Sys2Proof.Machine
end

