-- ==== Sys2Proof/Laws/Step.lean ====
section
/-! SUPPORT. What an instruction and an edge can do, once. -/

namespace Sys2Proof.Machine

/-- What any instruction that completes leaves: only `STATE`, `INC`, the response and the phase can differ. -/
theorem exec_next {i : Instr} {s t : State} (h : exec i s = .next t) :
    t = { s with state := t.state, inc := t.inc, rspData := t.rspData, rspErr := t.rspErr, phase := .resp } := by
  cases i with
  | init => cases h; rfl
  | seed a q => cases h; rfl
  | random => cases h; rfl
  | advance d => cases h; rfl
  | retreat d => cases h; rfl
  | reserved => cases h; rfl
  | bounded b =>
    simp only [exec, execBounded] at h
    split at h
    · cases h; rfl
    · obtain ⟨r, u, hu, rfl⟩ := finishSampling_next h
      obtain ⟨k, -, -, -, -, rfl⟩ := drawUntil_some hu
      rfl
  | fastBounded b =>
    simp only [exec, execFastBounded] at h
    split at h
    · cases h; rfl
    · rename_i hb
      obtain ⟨r, u, hu, rfl⟩ := finishSampling_next h
      obtain ⟨k, -, -, -, -, rfl⟩ := fastDraws_some hb hu
      rfl

/-- What an instruction computes, put on another state: the other state with the results written. -/
def transport (s' t : State) : State :=
  { s' with state := t.state, inc := t.inc, rspData := t.rspData, rspErr := t.rspErr, phase := .resp }

/-- The rejection loop reads `STATE` and `INC` alone. -/
theorem drawUntil_transport {accept : Word32 → Bool} (fuel : Nat) (s s' : State)
    (hs : s'.state = s.state) (hi : s'.inc = s.inc) :
    drawUntil accept fuel s' =
      (drawUntil accept fuel s).map fun p => (p.1, { s' with state := p.2.state, inc := p.2.inc }) := by
  induction fuel generalizing s s' with
  | zero => rfl
  | succ fuel ih =>
    unfold drawUntil
    rw [show (draw s').1 = (draw s).1 by simp [hs]]
    split
    · simp [draw, hs, hi]
    · rw [ih (draw s).2 (draw s').2 (by simp [hs, hi]) (by simp [hi])]
      rfl

/-- The draws of FAST_BOUNDED read `STATE` and `INC` alone. -/
theorem fastDraws_transport (bound : Word32) (s s' : State) (hs : s'.state = s.state) (hi : s'.inc = s.inc) :
    fastDraws bound s' =
      (fastDraws bound s).map fun p => (p.1, { s' with state := p.2.state, inc := p.2.inc }) := by
  have hdraw : draw s' = ((draw s).1, { s' with state := (draw s).2.state, inc := (draw s).2.inc }) := by
    simp [draw, hs, hi]
  have hloop := drawUntil_transport (accept := fun r => !decide (productLow bound r < thresh32 bound))
    (maxDraws - 1) (draw s).2 (draw s').2 (by simp [hs, hi]) (by simp [hi])
  unfold fastDraws
  rw [hloop, hdraw]
  split
  · split <;> rfl
  · rfl

theorem finishSampling_transport (f : Word32 → Word32) (o : Option (Word32 × State)) (s' : State) :
    finishSampling f (o.map fun p => (p.1, { s' with state := p.2.state, inc := p.2.inc })) =
      mapNext (transport s') (finishSampling f o) := by
  cases o <;> rfl

/-- An instruction reads `STATE` and `INC` alone (R32): on another state with the same two it computes the same. -/
theorem exec_transport (i : Instr) (s s' : State) (hs : s'.state = s.state) (hi : s'.inc = s.inc) :
    exec i s' = mapNext (transport s') (exec i s) := by
  have hkeep : respond 0 .completed s' = transport s' (respond 0 .completed s) := by
    simp [respond, transport, ← hs, ← hi]
  cases i with
  | init => rfl
  | seed a q => rfl
  | random => simp [exec, execRandom, draw, respond, transport, mapNext, hs, hi]
  | advance d => simp [exec, execAdvance, loadState, respond, transport, mapNext, hs, hi]
  | retreat d => simp [exec, execRetreat, loadState, respond, transport, mapNext, hs, hi]
  | reserved => simp [exec, execReserved, respondError, respond, transport, mapNext, ← hs, ← hi]
  | bounded b =>
    simp only [exec, execBounded]
    rw [drawUntil_transport maxDraws s s' hs hi, finishSampling_transport, hkeep]
    split <;> rfl
  | fastBounded b =>
    simp only [exec, execFastBounded]
    rw [fastDraws_transport b s s' hs hi, finishSampling_transport, hkeep]
    split <;> rfl

/-- No instruction is refused. -/
theorem exec_not_refused (i : Instr) (s : State) (r : Refusal) : exec i s ≠ .refused r := by
  cases i <;>
    simp only [exec, execInit, execSeed, execRandom, execAdvance, execRetreat, execReserved, execBounded,
      execFastBounded, ne_eq, reduceCtorEq, not_false_eq_true]
  all_goals
    split
    · simp
    · unfold finishSampling; split <;> simp

/-- What an edge that gives a next state did (R154, R176). -/
theorem step_cases {s t : State} (h : step s = .next t) :
    (s.pins.rst = true ∧ t = resetEdge (tick s)) ∨
    (s.pins.rst = false ∧ s.phase = .idle ∧ s.pins.cmdValid = true ∧ t = acceptCommand s.pins (tick s)) ∨
    (s.pins.rst = false ∧ s.phase = .idle ∧ s.pins.cmdValid = false ∧ t = tick s) ∨
    (s.pins.rst = false ∧ s.phase = .exec ∧ 1 < s.latLeft ∧ t = progress (tick s)) ∨
    (s.pins.rst = false ∧ s.phase = .exec ∧ s.latLeft ≤ 1 ∧
      exec (latched s) (completing (tick s)) = .next t) ∨
    (s.pins.rst = false ∧ s.phase = .resp ∧ s.pins.rspReady = true ∧ t = takeResponse (tick s)) ∨
    (s.pins.rst = false ∧ s.phase = .resp ∧ s.pins.rspReady = false ∧ t = tick s) := by
  unfold step clockEdge at h
  split at h
  · rename_i hrst
    cases h
    exact .inl ⟨hrst, rfl⟩
  · rename_i hrst
    have hrst : s.pins.rst = false := by simpa using hrst
    right
    cases hp : s.phase with
    | idle =>
      rw [hp] at h
      cases hv : s.pins.cmdValid with
      | true => left; exact ⟨hrst, rfl, rfl, by simpa [idleEdge, hv, eq_comm] using h⟩
      | false => right; left; exact ⟨hrst, rfl, rfl, by simpa [idleEdge, hv, eq_comm] using h⟩
    | exec =>
      rw [hp] at h
      right; right
      by_cases hl : s.latLeft ≤ 1
      · right; left; exact ⟨hrst, rfl, hl, by simpa [execEdge, hl, latched] using h⟩
      · left; exact ⟨hrst, rfl, by omega, by simpa [execEdge, hl, eq_comm] using h⟩
    | resp =>
      rw [hp] at h
      right; right; right; right
      cases hr : s.pins.rspReady with
      | true => left; exact ⟨hrst, rfl, rfl, by simpa [respEdge, hr, eq_comm] using h⟩
      | false => right; exact ⟨hrst, rfl, rfl, by simpa [respEdge, hr, eq_comm] using h⟩

@[simp] theorem runEdges_zero (s : State) : runEdges 0 s = .next s := rfl

/-- A run goes on from the first edge's next state. -/
theorem runEdges_succ {n : Nat} {s t : State} (h : step s = .next t) : runEdges (n + 1) s = runEdges n t := by
  simp [runEdges, h]

/-- A run of the host's interface is a run of edges. -/
theorem core_run_eq_runEdges (n : Nat) (s : State) : Sys2Proof.core.run n s = runEdges n s := by
  induction n generalizing s with
  | zero => rfl
  | succ n ih =>
    cases h : step s with
    | next t =>
      have hc : Sys2Proof.core.step s = .next t := h
      rw [runEdges_succ h, ← ih t]
      simp only [Host.Core.run, hc]
    | fault r =>
      have hc : Sys2Proof.core.step s = .fault r := h
      simp only [runEdges, h, Host.Core.run, hc]
      rfl
    | refused r =>
      have hc : Sys2Proof.core.step s = .refused r := h
      simp only [runEdges, h, Host.Core.run, hc]
      rfl

theorem acceptedAlong_succ {n : Nat} {s t : State} (h : step s = .next t) :
    acceptedAlong (n + 1) s = (acceptedNow s).toList ++ acceptedAlong n t := by
  simp [acceptedAlong, h]

end Sys2Proof.Machine
end

