-- ==== Sys2Proof/Laws/Units.lean ====
section
/-! SUPPORT. The working units, iteration by iteration and edge by edge (R123, R133). -/

namespace Sys2Proof.Machine

/-! ### The jump unit -/

@[simp] theorem jumpUnitAfter_zero (u : JumpRegs) : jumpUnitAfter 0 u = u := by
  simp [jumpUnitAfter, JumpRegs.run]

/-- One more cycle of the unit is `JUMP_BITS_PER_CYCLE` more iterations, whether it stops early or not. -/
theorem jumpUnitCycle_after (n : Nat) (u : JumpRegs) :
    jumpUnitCycle n (jumpUnitAfter n u) = jumpUnitAfter (n + Config.jumpBitsPerCycle) u := by
  unfold jumpUnitCycle jumpUnitAfter
  split
  · rw [← runFixed_add]
    congr 1
    omega
  · rw [run_add]

/-- The set-up edge of a jump loads the unit. -/
theorem jumpEdge_notSetUp {s : State} (d : Word64) (h : s.unitRun = .notSetUp) :
    (jumpEdge d s).jumpRegs = JumpRegs.load s.inc d ∧ (jumpEdge d s).unitRun = .running 0 := by
  simp [jumpEdge, h]

/-- Every later edge of a jump is one cycle of the unit. -/
theorem jumpEdge_running {s : State} {n : Nat} (d : Word64) (h : s.unitRun = .running n) :
    (jumpEdge d s).jumpRegs = jumpUnitCycle n s.jumpRegs ∧
    (jumpEdge d s).unitRun = .running (n + Config.jumpBitsPerCycle) := by
  simp [jumpEdge, h]

/-! ### The bounded-sampling unit -/

@[simp] theorem enter_bnd (b : Word32) (u : SamplerRegs) : (u.enter b).bnd = b := rfl
@[simp] theorem enter_thr (b : Word32) (u : SamplerRegs) : (u.enter b).thr = u.thr := rfl
@[simp] theorem enter_prod (b : Word32) (u : SamplerRegs) : (u.enter b).prod = u.prod := rfl
@[simp] theorem latchThreshold_bnd (u : SamplerRegs) : u.latchThreshold.bnd = u.bnd := rfl
@[simp] theorem latchThreshold_thr (u : SamplerRegs) : u.latchThreshold.thr = thresh32 u.bnd := rfl
@[simp] theorem latchThreshold_prod (u : SamplerRegs) : u.latchThreshold.prod = u.prod := rfl

@[simp] theorem boundedIteration_regs (u : SamplerRegs) (r : Word32) : (boundedIteration u r).regs = u := rfl

/-- BOUNDED's iteration responds exactly to a draw not below `THR`, with its remainder. -/
theorem boundedIteration_response (u : SamplerRegs) (r : Word32) :
    (boundedIteration u r).response = if u.thr ≤ r then some (r % u.bnd) else none := rfl

@[simp] theorem fastIteration_bnd (u : SamplerRegs) (r : Word32) : (fastIteration u r).regs.bnd = u.bnd := by
  simp only [fastIteration]; split <;> rfl

/-- FAST_BOUNDED's iteration latches the product of its draw. -/
@[simp] theorem fastIteration_prod (u : SamplerRegs) (r : Word32) :
    (fastIteration u r).regs.prod = mul32x32 r u.bnd := by
  simp only [fastIteration]; split <;> rfl

/-- FAST_BOUNDED's iteration latches the threshold exactly where the product's low half is below the bound. -/
theorem fastIteration_thr (u : SamplerRegs) (r : Word32) :
    (fastIteration u r).regs.thr = if productLow u.bnd r < u.bnd then thresh32 u.bnd else u.thr := by
  by_cases h : productLow u.bnd r < u.bnd
  · rw [if_pos h, fastIteration, if_pos (by exact h)]; rfl
  · rw [if_neg h, fastIteration, if_neg (by exact h)]

/-- FAST_BOUNDED's iteration rejects exactly a product whose low half is below the threshold. -/
theorem fastIteration_response {u : SamplerRegs} (hb : u.bnd ≠ 0) (r : Word32) :
    (fastIteration u r).response =
      if productLow u.bnd r < thresh32 u.bnd then none else some (productHigh u.bnd r) := by
  by_cases h : productLow u.bnd r < u.bnd
  · rw [fastIteration, if_pos (by exact h)]; rfl
  · rw [fastIteration, if_neg (by exact h), if_neg fun hlt => h (BitVec.lt_trans hlt (thresh32_lt hb))]; rfl

@[simp] theorem samplerSetUp_bnd (early : Bool) (b : Word32) (c : Nat) : (samplerSetUp early b c).bnd = b := by
  unfold samplerSetUp; split <;> rfl

/-- BOUNDED's set-up latches the threshold of a nonzero bound. -/
theorem samplerSetUp_thr {b : Word32} (hb : b ≠ 0) (c : Nat) : (samplerSetUp true b c).thr = thresh32 b := by
  rw [samplerSetUp, if_pos (by simpa using hb)]; rfl

/-- The set-up edge of a bounded command; a zero bound is finished with no draw. -/
theorem samplerEdge_notSetUp {s : State} (early : Bool) (it : SamplerRegs → Word32 → SamplerStep) (b : Word32)
    (h : s.unitRun = .notSetUp) :
    samplerEdge early it b s = { unusedUnits s.cycle with
      samplerRegs := samplerSetUp early b s.cycle, unitRun := if b = 0 then .finished 0 else .running 0 } := by
  simp [samplerEdge, h]

/-- An edge of a unit that draws: the draw goes on through the pipeline, or it has come through and its iteration ends,
rejected or accepted. -/
theorem samplerEdge_running {s : State} {n : Nat} (early : Bool) (it : SamplerRegs → Word32 → SamplerStep) (b : Word32)
    (h : s.unitRun = .running n) :
    (samplerEdge early it b s = { unusedUnits s.cycle with
      samplerRegs := s.samplerRegs, unitRun := .running n, pipe := clockedPipe n s, drawEdges := s.drawEdges + 1 }) ∨
    (s.pipe.stages ≤ s.drawEdges ∧
      (((it s.samplerRegs (drawnValue n s)).response = none ∧ samplerEdge early it b s = { unusedUnits s.cycle with
          samplerRegs := (it s.samplerRegs (drawnValue n s)).regs, unitRun := .running (n + 1),
          pipe := clockedPipe n s }) ∨
       ((it s.samplerRegs (drawnValue n s)).response ≠ none ∧ samplerEdge early it b s = { unusedUnits s.cycle with
          samplerRegs := (it s.samplerRegs (drawnValue n s)).regs, unitRun := .finished (n + 1),
          pipe := clockedPipe n s }))) := by
  simp only [samplerEdge, h]
  split
  · rename_i hend
    refine .inr ⟨by simpa [drawThrough] using (Bool.and_eq_true_iff.mp hend).1, ?_⟩
    cases (it s.samplerRegs (drawnValue n s)).response <;> simp
  · exact .inl rfl

/-- A unit that has accepted its draw holds. -/
theorem samplerEdge_finished {s : State} {n : Nat} (early : Bool) (it : SamplerRegs → Word32 → SamplerStep) (b : Word32)
    (h : s.unitRun = .finished n) :
    samplerEdge early it b s = { unusedUnits s.cycle with samplerRegs := s.samplerRegs, unitRun := .finished n } := by
  simp [samplerEdge, h]

/-- Nothing in the latch moves at an edge before the completing one. -/
@[simp] theorem latched_progress (s : State) : latched (progress s) = latched s := rfl

@[simp] theorem latched_completing (s : State) : latched (completing s) = latched s := rfl

@[simp] theorem latched_tick (s : State) : latched (tick s) = latched s := rfl

end Sys2Proof.Machine
end

