-- ==== Sys2Proof/Tests/Slice0.lean ====
section
/-!
SUPPORT. Tests: ill-formed lines, words written out from 30_encoding.md, the vectors of 95_test_vectors.md, and for each
statement with hypotheses a state and operands that meet them (`witness_…`).
-/

namespace Sys2Proof.Machine

/-! ### Helpers -/

/-- The reset state with chosen architectural words. -/
def testGen (state inc : Word64) : State := { State.reset with state := state, inc := inc }

/-- The state SEED 42, 54 leaves (V-S2). -/
def testSeeded : State := testGen 0x185706b82c2e03f8#64 0x6d#64

/-- Whether an outcome is a next state in RESP with these `STATE`, response and error bit. -/
def testAnswers (o : Host.Outcome State Fault Refusal) (state : Word64) (data : Word32) (err : Bool) : Bool :=
  match o with
  | .next t => decide (t.state = state) && decide (t.rspData = data) && (t.rspErr == err) && decide (t.phase = .resp)
  | _ => false

/-- A generator in EXEC with this command latched and a unit as given, `n` edges before the end. -/
def testRunning (n : Nat) (op : Opcode) (a : Word64) (r : UnitRun) (j : JumpRegs) (u : SamplerRegs) (s : State) : State :=
  { s with phase := .exec, latLeft := n, cmdOp := op, cmdA := a, unitRun := r, jumpRegs := j, samplerRegs := u }

/-- The inputs with one command offered. -/
def testOffer (op : Opcode) (a b : Word64) : Pins :=
  { Pins.quiet with cmdValid := true, cmdOp := op, cmdA := a, cmdB := b }

/-- The inputs with the host ready for a response. -/
def testReady : Pins := { Pins.quiet with rspReady := true }

/-- The inputs with reset asserted, a command offered and the host ready. -/
def testReset : Pins := { testOffer 2#3 0 0 with rst := true, rspReady := true }

/-! ### Well-formedness: an ill-formed line for each check (R69) -/

theorem test_wf_operand_missing : (AsmLine.wellFormed ⟨.seed, [1]⟩) = false := by decide
theorem test_wf_operand_extra : (AsmLine.wellFormed ⟨.random, [1]⟩) = false := by decide
theorem test_wf_bound_range : (AsmLine.wellFormed ⟨.bounded, [0x100000000]⟩) = false := by decide
theorem test_wf_delta_range : (AsmLine.wellFormed ⟨.advance, [0x10000000000000000]⟩) = false := by decide
theorem test_wf_zero_legal : (AsmLine.wellFormed ⟨.bounded, [0]⟩) = true := by decide
theorem test_wf_reserved_not_assemblable : Instr.assemblable .reserved = false := by decide

/-! ### Decoding: words written out from the encoding (R60, R62, 95_test_vectors.md) -/

/-- `0:0:0`, V-S1. -/
theorem test_decode_init : decode 0x000000000000000000000000000000000#131 = .init := by decide
/-- `1:0000000000000036:000000000000002a`, V-S2. -/
theorem test_decode_seed : decode 0x10000000000000036000000000000002a#131 = .seed 42#64 54#64 := by decide
/-- `2:0:0`, program P1. -/
theorem test_decode_random : decode 0x200000000000000000000000000000000#131 = .random := by decide
/-- V-B11: `A = 0xffffffff00000006`; bits 63:32 are ignored. -/
theorem test_decode_bounded : decode 0x30000000000000000ffffffff00000006#131 = .bounded 6#32 := by decide
/-- `4:0:c0000000`, program P2. -/
theorem test_decode_fastBounded : decode 0x4000000000000000000000000c0000000#131 = .fastBounded 0xc0000000#32 := by
  decide
/-- `5:0:ffffffffffffffff`, program P3. -/
theorem test_decode_advance : decode 0x50000000000000000ffffffffffffffff#131 = .advance 0xffffffffffffffff#64 := by
  decide
/-- `6:0:6`, program P3. -/
theorem test_decode_retreat : decode 0x600000000000000000000000000000006#131 = .retreat 6#64 := by decide
/-- `7:ffffffffffffffff:ffffffffffffffff`, V-E2. -/
theorem test_decode_reserved : decode 0x7ffffffffffffffffffffffffffffffff#131 = .reserved := by decide
theorem test_decode_table_word : decodeTableWord 136 0x600000000000000000000000000000006 = some (.retreat 6#64) := by
  decide
theorem test_decode_too_long : decodeTableWord 136 (2 ^ 131) = none := by decide
/-- R70's two examples. -/
theorem test_encode_examples :
    encode (.seed 42#64 54#64) = 0x10000000000000036000000000000002a#131 ∧
    encode (.bounded 6#32) = 0x300000000000000000000000000000006#131 := by decide

/-! ### Assembler text (R68) -/

theorem test_text_seed :
    assembleText "SEED 42, 54".toList = .ok (some 0x10000000000000036000000000000002a#131) := by decide
theorem test_text_hex_comment :
    assembleText "FAST_BOUNDED 0xc0000000 ; P2".toList = .ok (some 0x4000000000000000000000000c0000000#131) := by decide
theorem test_text_lower_case : assembleText "init".toList = .error .unknownName := by decide
theorem test_text_pseudo : assembleText "DISCARD".toList = .ok (some 0x500000000000000000000000000000001#131) := by decide

/-! ### LCG and permutation (V-L2 to V-L4, V-P2, V-P3, V-P10) -/

theorem test_lcg : lcgStep 0xffffffffffffffff#64 1#64 = 0xa7ae0bd2b36a80d4#64 ∧
    lcgStep 0x853c49e6748fea9b#64 0xda3e39cb94b95bdb#64 = 0xc83015ca079f7e1a#64 := by decide
theorem test_perm : perm 0xffffffffffffffff#64 = 0xfff00001#32 ∧ perm 0x853c49e6748fea9b#64 = 0x152ca78d#32 ∧
    perm 0xf800000008000000#64 = 0x000f8002#32 ∧ perm 0x07ffffffffffffff#64 = 0xffffc000#32 := by decide

/-! ### One step of each instruction -/

/-- V-S1. -/
theorem test_init : testAnswers (exec .init testSeeded) 0x853c49e6748fea9b#64 0 false = true := by decide
/-- V-S2. -/
theorem test_seed : testAnswers (exec (.seed 42#64 54#64) State.reset) 0x185706b82c2e03f8#64 0 false = true := by decide
/-- V-S5: `initstate + INC` wraps. -/
theorem test_seed_wraps :
    testAnswers (exec (.seed 0xffffffffffffffff#64 0xffffffffffffffff#64) State.reset) 0x4f5c17a566d501a5#64 0 false
      = true := by decide
/-- V-R4.1. -/
theorem test_random : testAnswers (exec .random testSeeded) 0x2b47fed88766bb05#64 0xa15c02b7#32 false = true := by decide
/-- V-R1. -/
theorem test_random_zero : testAnswers (exec .random (testGen 0 1)) 1#64 0 false = true := by decide
/-- V-B7: the first draw is rejected. -/
theorem test_bounded_rejects :
    testAnswers (exec (.bounded 0x80000001#32) (testGen 0x9ae4f7499ba72696#64 0x6d#64)) 0xbc79dbe95fa6a31c#64
      0x398f6a26#32 false = true := by decide
/-- V-B5, with V-F5 the two methods differ (R118). -/
theorem test_bounded_100 :
    testAnswers (exec (.bounded 100#32) testSeeded) 0x2b47fed88766bb05#64 0x53#32 false = true := by decide
/-- V-F6: `thresh <= low < bound` is accepted without a redraw (R115). -/
theorem test_fastBounded_no_redraw :
    testAnswers (exec (.fastBounded 0xc0000000#32) testSeeded) 0x2b47fed88766bb05#64 0x79050209#32 false = true := by
  decide
/-- V-F8: one redraw. -/
theorem test_fastBounded_redraws :
    testAnswers (exec (.fastBounded 0xc0000000#32) (testGen 0x8b33296d19bf5b4e#64 0x6d#64)) 0xebbf9e97aa16f694#64
      0x62de35ee#32 false = true := by decide
/-- V-J4. -/
theorem test_advance : testAnswers (exec (.advance 5#64) testSeeded) 0x8303569fbe80c471#64 0 false = true := by decide
/-- V-J8. -/
theorem test_advance_half :
    testAnswers (exec (.advance 0x8000000000000000#64) testSeeded) 0x985706b82c2e03f8#64 0 false = true := by
  decide +kernel
/-- V-J11. -/
theorem test_retreat : testAnswers (exec (.retreat 1#64) testSeeded) 0x97#64 0 false = true := by decide +kernel
/-- V-J13. -/
theorem test_retreat_1000 :
    testAnswers (exec (.retreat 1000#64) testSeeded) 0xa2900fc6666e11e0#64 0 false = true := by decide +kernel
/-- V-E1. -/
theorem test_reserved : testAnswers (exec .reserved testSeeded) 0x185706b82c2e03f8#64 0 true = true := by decide
/-- R134: the trace after iteration 2. -/
theorem test_jump_trace : (JumpRegs.load 0x6d#64 5#64).run 64 =
    ⟨0x696d29da565ad7fd#64, 0xbc5beeceba819059#64, 0xb59dda5f38413d21#64, 0xcd654675013e3ff8#64, 0#64⟩ := by decide

/-! ### Edges (V-H1 to V-H6) -/

/-- A placed word is what the next step after reset runs: V-R3.1. -/
theorem test_placed_word :
    testAnswers (step (State.reset.withFetchWord 136 0x200000000000000000000000000000000)) 0xc83015ca079f7e1a#64
      0x152ca78d#32 false = true := by decide
/-- V-H1. -/
theorem test_reset_outputs : (outputs State.reset).cmdReady = true ∧ (outputs State.reset).rspValid = false ∧
    (outputs State.reset).stateO = 0x853c49e6748fea9b#64 ∧ (outputs State.reset).incO = 0xda3e39cb94b95bdb#64 := by decide
/-- V-H6: reset and an offer at the same edge. -/
theorem test_reset_wins :
    (match step { testSeeded with script := [testReset] } with
      | .next t => decide (t.phase = .idle) && decide (t.state = 0x853c49e6748fea9b#64)
      | _ => false) = true := by decide
/-- V-H5: reset before the response is taken; nothing is transferred. -/
theorem test_reset_discards_response :
    (match step { testSeeded with phase := .resp, script := [testReset] } with
      | .next t => decide (t.phase = .idle) && decide (t.taken = []) && decide (t.inc = 0xda3e39cb94b95bdb#64)
      | _ => false) = true := by decide
/-- V-H3: an offer in EXEC that is not the completing edge leaves the latch alone. -/
theorem test_offer_in_exec :
    (match step { testSeeded with phase := .exec, latLeft := 2, script := [testOffer 5#3 7 0] } with
      | .next t => decide (t.phase = .exec) && decide (t.cmdOp = 0#3) && decide (t.latLeft = 1)
      | _ => false) = true := by decide
/-- R133: the edge after acceptance loads the jump unit from the latch (RETREAT 1 counts 2^64 - 1). -/
theorem test_jump_set_up :
    (match step { testSeeded with phase := .exec, latLeft := 2, cmdOp := 6#3, cmdA := 1#64 } with
      | .next t => decide (t.jumpRegs = ⟨1#64, 0#64, 0x5851f42d4c957f2d#64, 0x6d#64, 0xffffffffffffffff#64⟩) &&
          decide (t.unitRun = .running 0) && decide (t.state = 0x185706b82c2e03f8#64)
      | _ => false) = true := by decide
/-- R123: the edge after acceptance latches `BND` and, for BOUNDED, `THR` (R110: thresh32(100) = 96). -/
theorem test_bounded_set_up :
    (match step { testSeeded with phase := .exec, latLeft := 2, cmdOp := 3#3, cmdA := 100#64 } with
      | .next t => decide (t.samplerRegs.bnd = 100#32) && decide (t.samplerRegs.thr = 96#32) &&
          decide (t.unitRun = .running 0)
      | _ => false) = true := by decide
/-- V-F6: the iteration latches the product `0xa15c02b7 * 0xc0000000` and, since it is needed, the threshold. -/
theorem test_fast_iteration :
    (fastIteration { bnd := 0xc0000000#32, thr := 0#32, prod := 0#64 } 0xa15c02b7#32).regs =
      { bnd := 0xc0000000#32, thr := 0x40000000#32, prod := 0x7905020940000000#64 } ∧
    (fastIteration { bnd := 0xc0000000#32, thr := 0#32, prod := 0#64 } 0xa15c02b7#32).response = some 0x79050209#32 := by
  decide
/-- R98, V-R4.1: in an edge of RANDOM stage 1 of the old state enters the pipeline, and what was there moves on. -/
theorem test_random_enters_pipeline :
    (match step { testSeeded with phase := .exec, latLeft := 2, cmdOp := 2#3, pipe := ⟨[⟨6#32, 1#5⟩], [9#32]⟩ } with
      | .next t => decide (t.pipe = ⟨[⟨0x0ae015bd#32, 3#5⟩], [3#32]⟩) && decide (t.drawEdges = 1)
      | _ => false) = true := by decide
/-- R98, V-R4.1: with the old state held at the input the output of a pipeline of two registers is `perm` of it. -/
theorem test_pipeline_output :
    ((((⟨[⟨6#32, 1#5⟩], [9#32]⟩ : PermPipe).clock testSeeded.state).clock testSeeded.state).output testSeeded.state) =
      0xa15c02b7#32 := by decide
/-- R177: acceptance, whatever `LAT` is. -/
theorem test_accepts :
    (match step { testSeeded with script := [testOffer 5#3 7 0] } with
      | .next t => decide (t.phase = .exec) && decide (t.cmdOp = 5#3) && decide (t.cmdA = 7#64)
      | _ => false) = true := by decide
/-- R180: the response is transferred. -/
theorem test_takes :
    (match step { testSeeded with phase := .resp, rspData := 9#32, script := [testReady] } with
      | .next t => decide (t.phase = .idle) && decide (t.taken = [⟨9#32, false⟩])
      | _ => false) = true := by decide

/-! ### Witnesses: a case that meets every hypothesis of a statement, for each clause that has some -/

theorem witness_IgnoredFieldsHaveNoEffect_fields :
    (3#3 = 3#3 ∨ 3#3 = (4#3 : Opcode)) ∧ (0xffffffff00000006#64 : Word64).setWidth 32 = (6#64 : Word64).setWidth 32 := by
  decide

theorem witness_IgnoredFieldsHaveNoEffect_all_ignored : (7#3 : Opcode) = 0#3 ∨ (7#3 : Opcode) = 2#3 ∨ (7#3 : Opcode) = 7#3 := by
  decide

theorem witness_IgnoredFieldsHaveNoEffect_delta :
    ((5#3 : Opcode) = 5#3 ∨ (5#3 : Opcode) = 6#3) ∧ (0xffffffffffffffff#64 : Word64) = 0xffffffffffffffff#64 := by decide

theorem witness_IgnoredFieldsHaveNoEffect_running :
    ∃ (s : State) (a' b' : Word64), s.phase ≠ .idle ∧ s.pins.rst = false ∧ s.latLeft ≤ 1 ∧
      (a' ≠ s.cmdA ∧ b' ≠ s.cmdB) ∧ decodeFields s.cmdOp a' b' = decodeFields s.cmdOp s.cmdA s.cmdB :=
  ⟨{ testSeeded with phase := .exec, latLeft := 1, cmdOp := 3#3, cmdA := 6#64 }, 0xffffffff00000006#64, 1#64, by decide⟩

theorem witness_IgnoredFieldsHaveNoEffect_accepting :
    ∃ (p : Pins) (a' b' : Word64), a' ≠ p.cmdA ∧ b' ≠ p.cmdB ∧
      decodeFields p.cmdOp a' b' = decodeFields p.cmdOp p.cmdA p.cmdB :=
  ⟨testOffer 2#3 0 0, 1#64, 1#64, by decide⟩

theorem witness_IgnoredFieldsHaveNoEffect_encoded : ∃ i : Instr, (∀ a q, i ≠ .seed a q) ∧ i = .random := by
  exact ⟨.random, by simp, rfl⟩

theorem witness_AssemblyToCommandWords_assembled : ∃ cw, assemble ⟨.retreat, [0xffffffffffffffff]⟩ = .ok cw :=
  ⟨_, rfl⟩

theorem witness_AssemblerRefusesBadOperands :
    (⟨.seed, [1]⟩ : AsmLine).operands.length ≠ (⟨.seed, [1]⟩ : AsmLine).name.operandLimits.length ∧
    (∃ cw, assemble ⟨.bounded, [0xffffffff]⟩ = .ok cw) ∧ assemble ⟨.bounded, [0x100000000]⟩ = .error .operandRange := by
  exact ⟨by decide, ⟨_, rfl⟩, by decide⟩

theorem witness_PermCornerCases :
    (0x07ffffffffffffff#64 : Word64).extractLsb' 59 5 = 0#5 ∧
    (0xf800000008000000#64 : Word64).extractLsb' 59 5 = 31#5 ∧
    (0x0000000007ffffff#64 : Word64) >>> 27 = (0#64 : Word64) >>> 27 := by decide

theorem witness_PermIsRotateRight :
    (0x00004000#32 : Word32) = ((((0x0800000000000000#64 : Word64) >>> 18) ^^^ 0x0800000000000000#64) >>> 27).setWidth 32 ∧
    (1#32 : Word32) = ((0x0800000000000000#64 : Word64) >>> 59).setWidth 32 := by decide

theorem witness_LcgHasFullPeriod : (0x6d#64 : Word64).getLsbD 0 = true ∧ 0 < 2 ^ 64 - 1 ∧ 2 ^ 64 - 1 < 2 ^ 64 := by decide

theorem witness_OutputsAreEquidistributed : (0xda3e39cb94b95bdb#64 : Word64).getLsbD 0 = true := by decide

theorem witness_RandomAnswersOneDraw :
    (testGen 0 1).state = 0 ∧ testSeeded.state = 0x185706b82c2e03f8#64 ∧ testSeeded.inc = 0x6d#64 := by decide

theorem witness_ThresholdIsPowerModBound : (0xffffffff#32 : Word32) ≠ 0 ∧ (1#32 : Word32) ≠ 0 ∧ 0 ≤ 31 ∧ 31 ≤ 31 := by
  decide

theorem witness_BoundedAnswersFirstAcceptedDraw : (0x80000001#32 : Word32) ≠ 0 ∧ incOdd testSeeded := by decide

theorem witness_FastBoundedAnswersFirstAcceptedProduct : (0xffffffff#32 : Word32) ≠ 0 ∧ incOdd State.reset := by decide

theorem witness_BoundedAnswersLieInRange :
    ∃ t, exec (.bounded 100#32) testSeeded = .next t ∧ (100#32 : Word32) ≠ 0 := by
  cases h : exec (.bounded 100#32) testSeeded with
  | next t => exact ⟨t, rfl, by decide⟩
  | fault r => have := test_bounded_100; rw [h] at this; simp [testAnswers] at this
  | refused r => have := test_bounded_100; rw [h] at this; simp [testAnswers] at this

theorem witness_BoundedAnswersLieInRange_zero : ∃ t, exec (.fastBounded 0#32) testSeeded = .next t := ⟨_, rfl⟩

theorem witness_BoundedIsUniformOverAcceptedDraws : (6#32 : Word32) ≠ 0 ∧ (5#32 : Word32) < 6#32 := by decide

theorem witness_FastBoundedIsUniformOverAcceptedDraws : (0xffffffff#32 : Word32) ≠ 0 ∧ (0#32 : Word32) < 0xffffffff#32 := by
  decide

theorem witness_PowerOfTwoBoundsTakeOneDraw : 0 ≤ 31 ∧ (31 : Nat) ≤ 31 := by decide

theorem witness_JumpIsIteratedStep : (0 : Nat) ≤ 64 ∧ (64 : Nat) ≤ 64 := by decide

theorem witness_AdvanceJumpsForward : incOdd testSeeded := by decide

theorem witness_RetreatJumpsByTheNegation : testSeeded.state = 0x185706b82c2e03f8#64 ∧ testSeeded.inc = 0x6d#64 := by decide

theorem witness_ErrorBitIsReservedOpcodeOnly : ∃ t, exec .reserved testSeeded = .next t ∧ t.rspErr = true := ⟨_, rfl, rfl⟩

theorem witness_EveryCommandCompletes : incOdd State.reset ∧ (Instr.bounded 6#32 ≠ .reserved) := by decide

/-- With `INC = 0` and `STATE = 0` every draw is 0, and BOUNDED 6 rejects it for ever: the fault can be raised. -/
theorem witness_FaultOnlyWithEvenInc : exec (.bounded 6#32) (testGen 0 0) = .fault .samplingNeverAccepts := by
  have hsteps : ∀ n, lcgSteps n 0#64 0#64 = 0#64 := by
    intro n
    induction n with
    | zero => rfl
    | succ n ih => rw [lcgSteps_succ, show lcgStep 0#64 0#64 = 0#64 by decide, ih]
  have hnone : drawUntil (boundedAccepts (thresh32 6#32)) maxDraws (testGen 0 0) = none := by
    rw [drawUntil_none]
    intro j _
    show boundedAccepts (thresh32 6#32) (perm (lcgSteps j 0#64 0#64)) = false
    rw [hsteps]
    decide
  show execBounded 6#32 (testGen 0 0) = _
  rw [execBounded, if_neg (by decide), hnone]
  rfl

theorem witness_CommandsWriteOnlyTheirRegisters :
    ∃ t, exec (.advance 5#64) testSeeded = .next t ∧ (∀ a q, Instr.advance 5#64 ≠ .seed a q) ∧
      Instr.advance 5#64 ≠ .init := ⟨_, rfl, by simp, by simp⟩

theorem witness_ResetWinsAtAnEdge :
    ({ testSeeded with phase := .resp, script := [testReset] } : State).pins.rst = true := by decide

theorem witness_HoldingResetRepeatsIt :
    ∃ s : State, s.script.length = 2 ∧ 0 < 2 ∧ (∀ p ∈ s.script.take 2, p.rst = true) ∧ s.pins.rst = true :=
  ⟨{ testSeeded with script := [testReset, testReset] }, by decide⟩

theorem witness_IdleEdgeAcceptsAnOffer :
    ∃ s : State, s.phase = .idle ∧ s.pins.rst = false ∧ s.pins.cmdValid = true :=
  ⟨{ testSeeded with script := [testOffer 2#3 0 0] }, by decide⟩

theorem witness_IdleEdgeAcceptsAnOffer_none :
    State.reset.phase = .idle ∧ State.reset.pins.rst = false ∧ State.reset.pins.cmdValid = false := by decide

theorem witness_RespEdgeTransfersOrHolds :
    ∃ s : State, s.phase = .resp ∧ s.pins.rst = false ∧ s.pins.rspReady = true :=
  ⟨{ testSeeded with phase := .resp, script := [testReady] }, by decide⟩

theorem witness_RespEdgeTransfersOrHolds_hold :
    ∃ s : State, s.phase = .resp ∧ s.pins.rst = false ∧ s.pins.rspReady = false :=
  ⟨{ testSeeded with phase := .resp, script := [] }, by decide⟩

theorem witness_StepRunsTheLatchedCommand :
    ∃ s : State, s.phase = .exec ∧ s.pins.rst = false ∧ s.latLeft ≤ 1 :=
  ⟨{ testSeeded with phase := .exec, latLeft := 1, cmdOp := 2#3 }, by decide⟩

theorem witness_StepRunsTheLatchedCommand_progress :
    ∃ s : State, s.phase = .exec ∧ s.pins.rst = false ∧ 1 < s.latLeft :=
  ⟨{ testSeeded with phase := .exec, latLeft := 2, cmdOp := 2#3 }, by decide⟩

theorem witness_PlacedWordRunsNext : 0x7ffffffffffffffffffffffffffffffff < 2 ^ 131 := by decide

theorem witness_OutputsShowPhaseAndRegisters :
    ∃ s : State, s.phase = .resp ∧ s.phase ≠ .exec ∧ s.pins.rst = false ∧
      ({ s with script := [testReady] } : State).pins.rst = s.pins.rst :=
  ⟨{ testSeeded with phase := .resp, script := [testOffer 2#3 0 0] }, by decide⟩

theorem witness_UnacceptedOffersAreForgotten :
    ∃ (s : State) (p : Pins) (rest : List Pins), s.script = p :: rest ∧ s.phase ≠ .idle ∧ p.cmdValid = false :=
  ⟨{ testSeeded with phase := .exec, latLeft := 1, script := [testReady] }, testReady, [], by decide⟩

/-- The invariant with an answered reserved opcode in RESP, and the step the host's taking it is. -/
theorem witness_EveryStepKeepsTheInvariant :
    ∃ s t : State, StateInv s ∧ step s = .next t ∧ s.phase = .resp ∧ s.rspErr = true :=
  ⟨{ testSeeded with phase := .resp, rspErr := true, cmdOp := 7#3, script := [testReady] }, _,
    ⟨by decide, by decide, by decide, by decide, by simp [testSeeded, testGen, State.reset]⟩, rfl, rfl, rfl⟩

/-- What is kept of running units, from one fact about the command in the latch. -/
theorem unitInv_of_latched {s : State} {i : Instr} (hi : latched s = i) (hd : i = .random → drawHolds 0 s)
    (hj : ∀ d, i = .advance d → JumpHolds d s) (hr : ∀ d, i = .retreat d → JumpHolds (retreatCount d) s)
    (hb : ∀ b, i = .bounded b → BoundedHolds b s) (hf : ∀ b, i = .fastBounded b → FastHolds b s) : UnitInv s :=
  ⟨fun _ h => hd (hi.symm.trans h), fun d _ h => hj d (hi.symm.trans h), fun d _ h => hr d (hi.symm.trans h),
    fun b _ h => hb b (hi.symm.trans h), fun b _ h => hf b (hi.symm.trans h)⟩

/-- A pipeline of two registers that the draw of V-R4.1 has passed. -/
def testFullPipe : PermPipe := ⟨[⟨0x0ae015bd#32, 3#5⟩], [0xa15c02b7#32]⟩

theorem testFullPipe_holds : PipeHolds 2 testSeeded.state testFullPipe := by
  refine ⟨by decide, fun y hy => ?_⟩
  obtain rfl : y = 0xa15c02b7#32 := List.mem_singleton.mp hy
  decide

theorem witness_RunningUnitsHoldTheirWork_random :
    ∃ s : State, UnitInv s ∧ s.phase = .exec ∧ latched s = .random ∧ s.pipe.stages ≤ s.drawEdges :=
  ⟨{ testSeeded with phase := .exec, latLeft := 1, cmdOp := 2#3, pipe := testFullPipe, drawEdges := 2 },
    unitInv_of_latched (i := .random) (by decide) (fun _ => testFullPipe_holds) (by simp) (by simp) (by simp)
      (by simp), rfl, rfl, by decide⟩

theorem witness_RunningUnitsHoldTheirWork_draw :
    ∃ s : State, UnitInv s ∧ s.phase = .exec ∧ s.unitRun = .running 0 ∧ latched s = .bounded 6#32 ∧
      s.pipe.stages ≤ s.drawEdges := by
  refine ⟨{ testRunning 2 3#3 6#64 (.running 0) testSeeded.jumpRegs ⟨6#32, 4#32, 0#64⟩ testSeeded with
      pipe := testFullPipe, drawEdges := 2 },
    unitInv_of_latched (i := .bounded 6#32) (by decide) (by simp) (by simp) (by simp) ?_ (by simp),
    rfl, rfl, rfl, by decide⟩
  intro b hb
  cases hb
  refine ⟨?_, by rintro n ⟨⟩⟩
  rintro n ⟨⟩
  exact ⟨by decide, rfl, by decide, by simp, testFullPipe_holds⟩

/-- A loaded jump unit with nothing iterated yet holds what R133 says. -/
theorem jumpHolds_loaded {s : State} {d : Word64} (hu : s.unitRun = .running 0) (hr : s.jumpRegs = JumpRegs.load s.inc d) :
    JumpHolds d s := by
  constructor
  · intro n hn
    rw [hu] at hn
    cases hn
    rw [jumpUnitAfter_zero, hr]
  · intro n
    rw [hu]
    simp

theorem witness_RunningUnitsHoldTheirWork_advance :
    ∃ s t u : State, UnitInv s ∧ s.phase = .exec ∧ step s = .next t ∧ s.unitRun = .running 0 ∧
      latched s = .advance 5#64 ∧ exec (latched s) s = .next u := by
  refine ⟨testRunning 3 5#3 5#64 (.running 0) (JumpRegs.load 0x6d#64 5#64) testSeeded.samplerRegs testSeeded, _, _,
    unitInv_of_latched (i := .advance 5#64) (by decide) (by simp) ?_ (by simp) (by simp) (by simp), rfl, rfl, rfl, rfl, rfl⟩
  intro d hd
  cases hd
  exact jumpHolds_loaded rfl rfl

theorem witness_RunningUnitsHoldTheirWork_retreat :
    ∃ s u : State, UnitInv s ∧ s.phase = .exec ∧ s.unitRun = .running 0 ∧
      latched s = .retreat 1#64 ∧ exec (latched s) s = .next u := by
  refine ⟨testRunning 1 6#3 1#64 (.running 0) (JumpRegs.load 0x6d#64 0xffffffffffffffff#64) testSeeded.samplerRegs
      testSeeded, _,
    unitInv_of_latched (i := .retreat 1#64) (by decide) (by simp) (by simp) ?_ (by simp) (by simp), rfl, rfl, rfl, rfl⟩
  intro d hd
  cases hd
  exact jumpHolds_loaded rfl rfl

/-- V-B7: the first draw is rejected, the second accepted. -/
theorem witness_RunningUnitsHoldTheirWork_bounded :
    ∃ s : State, UnitInv s ∧ s.phase = .exec ∧ s.unitRun = .finished 2 ∧ latched s = .bounded 0x80000001#32 ∧
      testAnswers (exec (latched s) s) 0xbc79dbe95fa6a31c#64 0x398f6a26#32 false = true := by
  refine ⟨testRunning 1 3#3 0x80000001#64 (.finished 2) testSeeded.jumpRegs ⟨0x80000001#32, 0x7fffffff#32, 0#64⟩
      (testGen 0x9ae4f7499ba72696#64 0x6d#64),
    unitInv_of_latched (i := .bounded 0x80000001#32) (by decide) (by simp) (by simp) (by simp) ?_ (by simp),
    rfl, rfl, by decide, by decide⟩
  intro b hb
  cases hb
  refine ⟨by rintro n ⟨⟩, ?_⟩
  rintro n ⟨⟩
  refine ⟨rfl, by decide, fun _ => ⟨1, rfl, by decide, ?_, by decide⟩⟩
  intro j hj
  obtain rfl : j = 0 := by omega
  decide

/-- V-F6: the first draw is accepted by the test of the threshold. -/
theorem witness_RunningUnitsHoldTheirWork_fast :
    ∃ s : State, UnitInv s ∧ s.phase = .exec ∧ s.unitRun = .finished 1 ∧ latched s = .fastBounded 0xc0000000#32 ∧
      testAnswers (exec (latched s) s) 0x2b47fed88766bb05#64 0x79050209#32 false = true := by
  refine ⟨testRunning 1 4#3 0xc0000000#64 (.finished 1) testSeeded.jumpRegs
      ⟨0xc0000000#32, 0x40000000#32, 0x7905020940000000#64⟩ testSeeded,
    unitInv_of_latched (i := .fastBounded 0xc0000000#32) (by decide) (by simp) (by simp) (by simp) (by simp) ?_,
    rfl, rfl, by decide, by decide⟩
  intro b hb
  cases hb
  refine ⟨by rintro n ⟨⟩, ?_⟩
  rintro n ⟨⟩
  exact ⟨rfl, by decide, fun _ => ⟨0, rfl, by simp, by decide, by decide, by decide⟩⟩

theorem witness_ReferenceLatencyFollowsTheTable :
    (0xffffffffffffffff#64 : Word64).toNat < 2 ^ 64 ∧ 2 ^ (64 - 1) ≤ (0xffffffffffffffff#64 : Word64).toNat ∧
    (0#64 : Word64).toNat < 2 ^ 0 ∧ (6#32 : Word32) ≠ 0 ∧
    (0xffffffffffffffff#64 : Word64) = BitVec.ofNat 64 (2 ^ 64 - (1#64 : Word64).toNat) := by decide

theorem witness_TheMachineNeverStops :
    StateInv { testSeeded with phase := .exec, latLeft := 1, cmdOp := 3#3, cmdA := 6#64 } :=
  ⟨by decide, by decide, by decide, by decide, by simp [testSeeded, testGen, State.reset]⟩

/-- A command offered to an idle block and no reset after it, however long `LAT` is. -/
theorem noReset_of_one_sample (n : Nat) (p : Pins) (hp : p.rst = false) (s : State) :
    noReset n { s with script := [p] } := by
  intro q hq
  have := List.mem_of_mem_take hq
  simp at this
  rw [this, hp]

theorem witness_CommandCompletesAtItsLatency :
    ∃ s u : State, accepts s ∧ noReset (1 + offeredLatency s) s ∧ exec (offered s) s = .next u :=
  ⟨{ testSeeded with script := [testOffer 5#3 5 0] }, _, ⟨rfl, rfl, rfl⟩, noReset_of_one_sample _ _ rfl _, rfl⟩

theorem witness_RunsEqualCommandsInOrder :
    ∃ s t : State, s.phase = .idle ∧ incOdd s ∧ noReset 3 s ∧ runEdges 3 s = .next t ∧ t.phase = .idle :=
  ⟨testSeeded, _, rfl, by decide, by intro p hp; simp [testSeeded, testGen, State.reset] at hp, rfl, rfl⟩

theorem witness_UntakenResponseIsHeldForEver :
    ∃ s : State, s.phase = .resp ∧ ∀ p ∈ s.script.take 1000, p.rst = false ∧ p.rspReady = false :=
  ⟨{ testSeeded with phase := .resp, script := [testOffer 2#3 0 0] }, rfl, by decide⟩

theorem witness_AcceptancesAreSpaced :
    ∃ s : State, accepts s ∧ incOdd s ∧ noReset (2 + offeredLatency s) s :=
  ⟨{ testSeeded with script := [testOffer 2#3 0 0] }, ⟨rfl, rfl, rfl⟩, by decide, noReset_of_one_sample _ _ rfl _⟩

theorem witness_JumpUnitComputesJump : (0xffffffffffffffff#64 : Word64).toNat < 2 ^ (8 * 8) ∧
    (5#64 : Word64).toNat < 2 ^ (3 * 1) := by decide

theorem witness_SamplerUnitComputesBounded : (0x80000001#32 : Word32) ≠ 0 := by decide

end Sys2Proof.Machine
end

section
/-! SUPPORT. What an instruction that completes leaves, command by command (R22, R25, R112, R116, R152). -/

namespace Sys2Proof.Machine

/-- BOUNDED answers 0 to a zero bound with no draw, and otherwise the remainder of its first draw not below the
threshold. -/
theorem execBounded_next {b : Word32} {s t : State} (h : execBounded b s = .next t) :
    (b = 0 ∧ t = respond 0 .completed s) ∨
    (b ≠ 0 ∧ ∃ k < maxDraws, (∀ j < k, nthDraw j s.state s.inc < thresh32 b) ∧
      ¬ nthDraw k s.state s.inc < thresh32 b ∧
      t = respond (nthDraw k s.state s.inc % b) .completed (loadState (lcgSteps (k + 1) s.state s.inc) s)) := by
  unfold execBounded at h
  split at h
  · cases h
    exact .inl ⟨‹_›, rfl⟩
  · obtain ⟨r, u, hu, rfl⟩ := finishSampling_next h
    obtain ⟨k, hk, hbelow, hat, rfl, rfl⟩ := drawUntil_some hu
    simp only [boundedAccepts, decide_eq_false_iff_not, decide_eq_true_eq] at hbelow hat
    exact .inr ⟨‹_›, k, hk, fun j hj => BitVec.not_le.mp (hbelow j hj), BitVec.not_lt.mpr hat, rfl⟩

/-- FAST_BOUNDED answers 0 to a zero bound with no draw, and otherwise the high half of its first product whose low half
is not below the threshold. -/
theorem execFastBounded_next {b : Word32} {s t : State} (h : execFastBounded b s = .next t) :
    (b = 0 ∧ t = respond 0 .completed s) ∨
    (b ≠ 0 ∧ ∃ k < maxDraws, (∀ j < k, productLow b (nthDraw j s.state s.inc) < thresh32 b) ∧
      ¬ productLow b (nthDraw k s.state s.inc) < thresh32 b ∧
      t = respond (productHigh b (nthDraw k s.state s.inc)) .completed
        (loadState (lcgSteps (k + 1) s.state s.inc) s)) := by
  unfold execFastBounded at h
  split at h
  · cases h
    exact .inl ⟨‹_›, rfl⟩
  · rename_i hb
    obtain ⟨r, u, hu, rfl⟩ := finishSampling_next h
    obtain ⟨k, hk, hbelow, hat, rfl, rfl⟩ := fastDraws_some hb hu
    exact .inr ⟨hb, k, hk, hbelow, hat, rfl⟩

/-- Every instruction that completes responds, with the error status for the reserved opcode alone, over the two
registers it writes: `INC` takes the default in INIT, the stream of its operand in SEED, and stays in every other. -/
theorem exec_responds {i : Instr} {s t : State} (h : exec i s = .next t) :
    ∃ (x c : Word64) (d : Word32),
      t = respond d (if i = .reserved then .reservedOpcode else .completed) (loadGenerator x c s) ∧
      (c = s.inc ∨ (i = .init ∧ c = DEFAULT_INC) ∨ ∃ a q, i = .seed a q ∧ c = incOfSequence q) := by
  cases i with
  | init => cases h; exact ⟨_, _, _, rfl, .inr (.inl ⟨rfl, rfl⟩)⟩
  | seed a q => cases h; exact ⟨_, _, _, rfl, .inr (.inr ⟨a, q, rfl, rfl⟩)⟩
  | random => cases h; exact ⟨_, s.inc, _, rfl, .inl rfl⟩
  | advance d => cases h; exact ⟨_, s.inc, _, rfl, .inl rfl⟩
  | retreat d => cases h; exact ⟨_, s.inc, _, rfl, .inl rfl⟩
  | reserved => cases h; exact ⟨s.state, s.inc, _, rfl, .inl rfl⟩
  | bounded b =>
    obtain ⟨-, rfl⟩ | ⟨-, k, -, -, -, rfl⟩ := execBounded_next h
    · exact ⟨s.state, s.inc, _, rfl, .inl rfl⟩
    · exact ⟨_, s.inc, _, rfl, .inl rfl⟩
  | fastBounded b =>
    obtain ⟨-, rfl⟩ | ⟨-, k, -, -, -, rfl⟩ := execFastBounded_next h
    · exact ⟨s.state, s.inc, _, rfl, .inl rfl⟩
    · exact ⟨_, s.inc, _, rfl, .inl rfl⟩

/-- R152: the error bit is the reserved opcode's alone. -/
theorem exec_rspErr_iff {i : Instr} {s t : State} (h : exec i s = .next t) : t.rspErr = true ↔ i = .reserved := by
  obtain ⟨x, c, d, rfl, -⟩ := exec_responds h
  by_cases hi : i = .reserved <;> simp [hi]

/-- R151: the reserved opcode answers data 0 and leaves `STATE`. -/
theorem exec_of_reserved {s t : State} (h : exec .reserved s = .next t) : t.rspData = 0 ∧ t.state = s.state := by
  cases h
  exact ⟨rfl, rfl⟩

/-- R22: `INC` is written by INIT and SEED alone. -/
theorem exec_inc_eq {i : Instr} {s t : State} (h : exec i s = .next t) (hseed : ∀ a q, i ≠ .seed a q)
    (hinit : i ≠ .init) : t.inc = s.inc := by
  obtain ⟨x, c, d, rfl, hc | ⟨hi, -⟩ | ⟨a, q, hi, -⟩⟩ := exec_responds h
  · exact hc
  · exact absurd hi hinit
  · exact absurd hi (hseed a q)

/-- R82: the `INC` of a SEED is odd, whatever its sequence. -/
theorem incOfSequence_odd (q : Word64) : (incOfSequence q).getLsbD 0 = true := by
  simp [incOfSequence]

/-- R21: no instruction makes `INC` even. -/
theorem exec_incOdd {i : Instr} {s t : State} (h : exec i s = .next t) (hs : incOdd s) : incOdd t := by
  obtain ⟨x, c, d, rfl, rfl | ⟨-, rfl⟩ | ⟨-, q, -, rfl⟩⟩ := exec_responds h
  · exact hs
  · exact (by decide : DEFAULT_INC.getLsbD 0 = true)
  · exact incOfSequence_odd q

end Sys2Proof.Machine
end

section
/-! SUPPORT. What an edge does in each phase, and when the ports show a register (R26, R33, R34, R170, R176). -/

namespace Sys2Proof.Machine

/-- R170: an edge with `rst = 1`. -/
theorem step_of_reset {s : State} (h : s.pins.rst = true) : step s = .next (resetEdge (tick s)) := by
  simp [step, clockEdge, h]

/-- R176: an edge in IDLE. -/
theorem step_of_idle {s : State} (hr : s.pins.rst = false) (hp : s.phase = .idle) :
    step s = .next (idleEdge s.pins (tick s)) := by
  simp [step, clockEdge, hr, hp]

/-- R176: an edge in RESP. -/
theorem step_of_resp {s : State} (hr : s.pins.rst = false) (hp : s.phase = .resp) :
    step s = .next (respEdge s.pins (tick s)) := by
  simp [step, clockEdge, hr, hp]

/-- R179: the completing edge runs the latched command. -/
theorem step_of_completing {s : State} (hr : s.pins.rst = false) (hp : s.phase = .exec) (hl : s.latLeft ≤ 1) :
    step s = exec (latched s) (completing (tick s)) := by
  simp [step, clockEdge, execEdge, hr, hp, hl]

/-- R176: an earlier edge in EXEC is internal progress. -/
theorem step_of_progress {s : State} (hr : s.pins.rst = false) (hp : s.phase = .exec) (hl : 1 < s.latLeft) :
    step s = .next (progress (tick s)) := by
  simp [step, clockEdge, execEdge, hr, hp, Nat.not_le.mpr hl]

@[simp] theorem withUnits_pins (u : Units) (s : State) : (withUnits u s).pins = s.pins := rfl

/-- The placement clears `rst` in the present cycle, whatever the host drives (log 15). -/
theorem withAccepted_rst (s : State) (cw : CommandWord) : (withAccepted s cw).pins.rst = false := by
  rw [State.pins, withAccepted_script]
  cases s.script <;> rfl

theorem cmdReady_iff (s : State) : cmdReady s = true ↔ s.phase = .idle ∧ s.pins.rst = false := by
  simp [cmdReady]

theorem rspValid_iff (s : State) : rspValid s = true ↔ s.phase = .resp ∧ s.pins.rst = false := by
  simp [rspValid]

/-- R34: the readback has a meaning in IDLE and RESP without reset. -/
theorem readbackValid_iff (s : State) : readbackValid s = true ↔ s.phase ≠ .exec ∧ s.pins.rst = false := by
  rw [readbackValid, Bool.or_eq_true, cmdReady_iff, rspValid_iff]
  cases s.phase <;> simp

/-- R175: the ports read the registers and `rst`, and nothing else of what the host drives. -/
theorem outputs_of_script {s : State} {script : List Pins}
    (h : ({ s with script := script } : State).pins.rst = s.pins.rst) :
    outputs { s with script := script } = outputs s := by
  have hready : cmdReady { s with script := script } = cmdReady s :=
    congrArg (fun rst => decide (s.phase = .idle) && !rst) h
  have hvalid : rspValid { s with script := script } = rspValid s :=
    congrArg (fun rst => decide (s.phase = .resp) && !rst) h
  unfold outputs readbackValid
  rw [hready, hvalid]

end Sys2Proof.Machine
end

section
/-! SUPPORT. What the working units' registers lead to (R98, R123, R133): a draw through the pipeline is `perm` of its old
state, and the jump unit, wherever it stands, has the jump's result ahead of it. -/

namespace Sys2Proof.Machine

/-! ### The pipeline -/

theorem permStage1_xs (old : Word64) : (permStage1 old).xs = xorShifted old := by
  ext i hi
  simp [permStage1, xorShifted, trunc32, XS_SHIFT1, XS_SHIFT2, Bool.xor_comm]

theorem permStage1_rot_toNat (old : Word64) : (permStage1 old).rot.toNat = (rotation old).toNat := by
  have h59 : old.toNat >>> 59 < 32 := by rw [Nat.shiftRight_eq_div_pow]; omega
  simp only [permStage1, rotation, trunc32, ROT_SHIFT, BitVec.extractLsb'_toNat, BitVec.toNat_ushiftRight,
    Nat.shiftRight_zero]
  omega

/-- R92, R93: the masked left shift of R92 is by `32 - rot`, and by 0 where `rot` is 0. -/
theorem toNat_neg_and_mask (rot : Word32) (h : rot.toNat < 32) : ((-rot) &&& 31#32).toNat = (32 - rot.toNat) % 32 := by
  rw [BitVec.toNat_and, BitVec.toNat_neg, show (31#32).toNat = 2 ^ 5 - 1 from rfl, Nat.and_two_pow_sub_one_eq_mod]
  omega

/-- R92: the branch-free rotation is the rotation. -/
theorem rotateRightMasked_eq_rotateRight (xs : Word32) {rot : Word32} (h : rot.toNat < 32) :
    rotateRightMasked xs rot = xs.rotateRight rot.toNat := by
  rw [BitVec.rotateRight_eq_rotateRightAux_of_lt h]
  unfold rotateRightMasked BitVec.rotateRightAux
  rw [BitVec.ushiftRight_eq', BitVec.shiftLeft_eq', toNat_neg_and_mask rot h]
  by_cases h0 : rot.toNat = 0
  · simp [h0]
  · rw [Nat.mod_eq_of_lt (by omega)]

/-- R98: the two stages of the pipeline compute `perm`. -/
theorem permStage2_permStage1 (old : Word64) : permStage2 (permStage1 old) = perm old := by
  have hrot : (rotation old).toNat < 32 := permStage1_rot_toNat old ▸ (permStage1 old).rot.isLt
  rw [perm, rotateRightMasked_eq_rotateRight _ hrot, permStage2, permStage1_xs, permStage1_rot_toNat]

/-- R98: what leaves the pipeline once draw number `n` has passed every register is that draw. -/
theorem drawnValue_eq_nthDraw {n : Nat} {s : State} (h : drawHolds n s) (hthrough : s.pipe.stages ≤ s.drawEdges) :
    drawnValue n s = nthDraw n s.state s.inc :=
  (output_of_holds h hthrough).trans (permStage2_permStage1 _)

/-! ### The jump unit -/

/-- Iterations made without the early stop do not show in what the loop then gives: those past the end only square. -/
theorem run_runFixed_apply (m k : Nat) (u : JumpRegs) (s : Word64) :
    (JumpRegs.run k (JumpRegs.runFixed m u)).apply s = (JumpRegs.run (m + k) u).apply s := by
  induction m generalizing u with
  | zero => simp
  | succ m ih =>
    rw [runFixed_succ, ih, Nat.add_right_comm]
    by_cases h : u.deltaRem = 0#64
    · rw [run_of_done (iterate_deltaRem_of_done h), run_of_done h, iterate_apply_of_done h]
    · rw [run_succ_of_count h]

/-- 64 passes consume any count, so the loop does nothing in more. -/
theorem run_add_64 (n : Nat) (u : JumpRegs) : JumpRegs.run (n + 64) u = JumpRegs.run 64 u := by
  have hdone : (JumpRegs.run 64 u).deltaRem = 0#64 := by
    rw [run_deltaRem]
    exact BitVec.ushiftRight_eq_zero (by omega)
  rw [Nat.add_comm, run_add, run_of_done hdone]

/-- R133: from wherever the unit stands after `n` iterations, stopping early or not, the loop's end and the final
multiply-add give the jump. -/
theorem jumpUnitAfter_apply (n : Nat) (s c d : Word64) :
    ((jumpUnitAfter n (JumpRegs.load c d)).run 64).apply s = jump s c d := by
  unfold jumpUnitAfter jump
  split
  · rw [run_runFixed_apply, run_add_64]
  · rw [← run_add, run_add_64]

end Sys2Proof.Machine
end

section
/-! SUPPORT. What the running units hold, kept by every edge before the completing one (R29 to R31, R98, R123, R133). -/

namespace Sys2Proof.Machine

/-! ### Where nothing is claimed of the units -/

/-- Outside EXEC the units may hold anything (U4). -/
theorem unitInv_of_phase_ne_exec {s : State} (h : s.phase ≠ .exec) : UnitInv s :=
  ⟨fun hp => absurd hp h, fun _ hp => absurd hp h, fun _ hp => absurd hp h, fun _ hp => absurd hp h,
    fun _ hp => absurd hp h⟩

/-- Before its set-up a unit may hold anything, and so may the pipeline before a draw has fed it. -/
theorem unitInv_of_notSetUp {s : State} (hu : s.unitRun = .notSetUp) (hd : s.drawEdges = 0) : UnitInv s where
  random _ _ := by rw [drawHolds, hd]; exact pipeHolds_zero _ _
  advance _ _ _ := ⟨by simp [hu], by simp [hu]⟩
  retreat _ _ _ := ⟨by simp [hu], by simp [hu]⟩
  bounded _ _ _ := ⟨by simp [hu], by simp [hu]⟩
  fastBounded _ _ _ := ⟨by simp [hu], by simp [hu]⟩

/-- The host's inputs moving on touch no unit. -/
theorem unitInv_tick {s : State} (h : UnitInv s) : UnitInv (tick s) where
  random hp hl := h.random hp hl
  advance d hp hl := ⟨(h.advance d hp hl).running, (h.advance d hp hl).unfinished⟩
  retreat d hp hl := ⟨(h.retreat d hp hl).running, (h.retreat d hp hl).unfinished⟩
  bounded b hp hl := ⟨(h.bounded b hp hl).running, (h.bounded b hp hl).finished⟩
  fastBounded b hp hl := ⟨(h.fastBounded b hp hl).running, (h.fastBounded b hp hl).finished⟩

/-! ### RANDOM and the jumps -/

/-- R98: an edge takes RANDOM's draw one register further. -/
theorem drawHolds_progress {s : State} (hl : latched s = .random) (h : drawHolds 0 s) : drawHolds 0 (progress s) := by
  have hedge : unitEdge (latched s) s = randomEdge s := by rw [hl]; rfl
  rw [drawHolds, progress_drawEdges, progress_pipe, hedge]
  exact pipeHolds_clock h

/-- R133: an edge of a jump loads the unit or retires a cycle of iterations. -/
theorem jumpHolds_progress {s : State} {d : Word64} (hedge : unitEdge (latched s) s = jumpEdge d s)
    (h : JumpHolds d s) : JumpHolds d (progress s) := by
  obtain ⟨m, hregs, hrun⟩ : ∃ m, (progress s).jumpRegs = jumpUnitAfter m (JumpRegs.load s.inc d) ∧
      (progress s).unitRun = .running m := by
    rw [progress_jumpRegs, progress_unitRun, hedge]
    cases hu : s.unitRun with
    | notSetUp =>
      obtain ⟨hregs, hrun⟩ := jumpEdge_notSetUp d hu
      exact ⟨0, by rw [hregs, jumpUnitAfter_zero], hrun⟩
    | running n =>
      obtain ⟨hregs, hrun⟩ := jumpEdge_running d hu
      exact ⟨_, by rw [hregs, h.running n hu, jumpUnitCycle_after], hrun⟩
    | finished n => exact absurd hu (h.unfinished n)
  exact ⟨fun n hn => by cases hrun.symm.trans hn; exact hregs, fun n hn => by cases hrun.symm.trans hn⟩

/-! ### The bounded-sampling unit -/

/-- What a bounded command's unit holds, by how far it has come: `Drawing` after so many rejected draws, with the next one
on its way through the pipeline, and `Done` once one is accepted. -/
structure SamplerHolds (Drawing Done : Nat → SamplerRegs → Prop) (s : State) : Prop where
  running : ∀ n, s.unitRun = .running n → Drawing n s.samplerRegs ∧ drawHolds n s
  finished : ∀ n, s.unitRun = .finished n → Done n s.samplerRegs

theorem samplerHolds_of_running {Drawing Done : Nat → SamplerRegs → Prop} {s : State} {n : Nat}
    (hu : s.unitRun = .running n) (h : Drawing n s.samplerRegs) (hdraw : drawHolds n s) : SamplerHolds Drawing Done s :=
  ⟨fun m hm => by cases hu.symm.trans hm; exact ⟨h, hdraw⟩, fun m hm => by cases hu.symm.trans hm⟩

theorem samplerHolds_of_finished {Drawing Done : Nat → SamplerRegs → Prop} {s : State} {n : Nat}
    (hu : s.unitRun = .finished n) (h : Done n s.samplerRegs) : SamplerHolds Drawing Done s :=
  ⟨fun m hm => (by cases hu.symm.trans hm), fun m hm => by cases hu.symm.trans hm; exact h⟩

/-- R123: what a sampler holds is kept by every edge, where its set-up establishes it and an iteration takes it from
one draw to the next. -/
theorem samplerHolds_progress {Drawing Done : Nat → SamplerRegs → Prop} {early : Bool}
    {it : SamplerRegs → Word32 → SamplerStep} {b : Word32} {s : State}
    (hedge : unitEdge (latched s) s = samplerEdge early it b s)
    (hsetUpZero : b = 0 → Done 0 (samplerSetUp early b s.cycle))
    (hsetUp : b ≠ 0 → Drawing 0 (samplerSetUp early b s.cycle))
    (hreject : ∀ n u, Drawing n u → (it u (nthDraw n s.state s.inc)).response = none →
      Drawing (n + 1) (it u (nthDraw n s.state s.inc)).regs)
    (haccept : ∀ n u, Drawing n u → (it u (nthDraw n s.state s.inc)).response ≠ none →
      Done (n + 1) (it u (nthDraw n s.state s.inc)).regs)
    (h : SamplerHolds Drawing Done s) : SamplerHolds Drawing Done (progress s) := by
  cases hu : s.unitRun with
  | notSetUp =>
    rw [samplerEdge_notSetUp _ _ _ hu] at hedge
    by_cases hb : b = 0
    · exact samplerHolds_of_finished (n := 0) (by simp [hedge, hb]) (by simpa [hedge] using hsetUpZero hb)
    · refine samplerHolds_of_running (n := 0) (by rw [progress_unitRun, hedge]; exact if_neg hb)
        (by simpa [hedge] using hsetUp hb) ?_
      rw [drawHolds, progress_drawEdges, hedge]
      exact pipeHolds_zero _ _
  | running n =>
    obtain ⟨hregs, hdraw⟩ := h.running n hu
    obtain hgo | ⟨hthrough, hends⟩ := samplerEdge_running early it b hu
    · rw [hgo] at hedge
      refine samplerHolds_of_running (n := n) (by simp [hedge]) (by simpa [hedge] using hregs) ?_
      rw [drawHolds, progress_drawEdges, progress_pipe, hedge]
      exact pipeHolds_clock hdraw
    · rw [drawnValue_eq_nthDraw hdraw hthrough] at hends
      obtain ⟨hresp, hgo⟩ | ⟨hresp, hgo⟩ := hends
      · rw [hgo] at hedge
        refine samplerHolds_of_running (n := n + 1) (by simp [hedge]) (by simpa [hedge] using hreject n _ hregs hresp) ?_
        rw [drawHolds, progress_drawEdges, hedge]
        exact pipeHolds_zero _ _
      · rw [hgo] at hedge
        exact samplerHolds_of_finished (n := n + 1) (by simp [hedge]) (by simpa [hedge] using haccept n _ hregs hresp)
  | finished n =>
    rw [samplerEdge_finished _ _ _ hu] at hedge
    exact samplerHolds_of_finished (n := n) (by simp [hedge]) (by simpa [hedge] using h.finished n hu)

/-- R123: BOUNDED's unit after `n` rejected draws. -/
structure BoundedDrawing (b : Word32) (s c : Word64) (n : Nat) (u : SamplerRegs) : Prop where
  bound : b ≠ 0
  bnd : u.bnd = b
  thr : u.thr = thresh32 b
  rejected : ∀ j < n, nthDraw j s c < thresh32 b

/-- R123: BOUNDED's unit after the accepted draw, the last of `n`. -/
structure BoundedDone (b : Word32) (s c : Word64) (n : Nat) (u : SamplerRegs) : Prop where
  bnd : u.bnd = b
  zero : b = 0 → n = 0
  last : b ≠ 0 → ∃ k, n = k + 1 ∧ u.thr = thresh32 b ∧ (∀ j < k, nthDraw j s c < thresh32 b) ∧
    thresh32 b ≤ nthDraw k s c

theorem boundedHolds_iff {b : Word32} {s : State} : BoundedHolds b s ↔
    SamplerHolds (BoundedDrawing b s.state s.inc) (BoundedDone b s.state s.inc) s := by
  constructor
  · intro h
    refine ⟨fun n hn => ?_, fun n hn => ?_⟩
    · obtain ⟨hb, hbnd, hthr, hrej, hdraw⟩ := h.running n hn
      exact ⟨⟨hb, hbnd, hthr, hrej⟩, hdraw⟩
    · obtain ⟨hbnd, hzero, hlast⟩ := h.finished n hn
      exact ⟨hbnd, hzero, hlast⟩
  · intro h
    refine ⟨fun n hn => ?_, fun n hn => ?_⟩
    · obtain ⟨⟨hb, hbnd, hthr, hrej⟩, hdraw⟩ := h.running n hn
      exact ⟨hb, hbnd, hthr, hrej, hdraw⟩
    · obtain ⟨hbnd, hzero, hlast⟩ := h.finished n hn
      exact ⟨hbnd, hzero, hlast⟩

theorem boundedHolds_progress {s : State} {b : Word32} (hl : latched s = .bounded b) (h : BoundedHolds b s) :
    BoundedHolds b (progress s) := by
  have hedge : unitEdge (latched s) s = samplerEdge true boundedIteration b s := by rw [hl]; rfl
  refine boundedHolds_iff.mpr (samplerHolds_progress hedge ?setUpZero ?setUp ?reject ?accept (boundedHolds_iff.mp h))
  case setUpZero => exact fun hb => ⟨by simp, fun _ => rfl, fun h0 => absurd hb h0⟩
  case setUp => exact fun hb => ⟨hb, by simp, samplerSetUp_thr hb _, by simp⟩
  case reject =>
    intro n u hu hresp
    rw [boundedIteration_response, hu.thr] at hresp
    have hbelow : nthDraw n s.state s.inc < thresh32 b := by simpa using hresp
    exact ⟨hu.bound, hu.bnd, hu.thr, Nat.forall_lt_succ_right.mpr ⟨hu.rejected, hbelow⟩⟩
  case accept =>
    intro n u hu hresp
    rw [boundedIteration_response, hu.thr] at hresp
    have hat : thresh32 b ≤ nthDraw n s.state s.inc := by simpa using hresp
    exact ⟨hu.bnd, fun h0 => absurd h0 hu.bound, fun _ => ⟨n, rfl, hu.thr, hu.rejected, hat⟩⟩

/-- R123: FAST_BOUNDED's unit after `n` rejected draws: the threshold and the last product once there was one. -/
structure FastDrawing (b : Word32) (s c : Word64) (n : Nat) (u : SamplerRegs) : Prop where
  bound : b ≠ 0
  bnd : u.bnd = b
  rejected : ∀ j < n, productLow b (nthDraw j s c) < thresh32 b
  last : ∀ k, n = k + 1 → u.prod = mul32x32 (nthDraw k s c) b ∧ u.thr = thresh32 b

/-- R123: FAST_BOUNDED's unit after the accepted draw, the last of `n`. -/
structure FastDone (b : Word32) (s c : Word64) (n : Nat) (u : SamplerRegs) : Prop where
  bnd : u.bnd = b
  zero : b = 0 → n = 0
  last : b ≠ 0 → ∃ k, n = k + 1 ∧ (∀ j < k, productLow b (nthDraw j s c) < thresh32 b) ∧
    ¬ productLow b (nthDraw k s c) < thresh32 b ∧ u.prod = mul32x32 (nthDraw k s c) b ∧
    (productLow b (nthDraw k s c) < b ∨ 0 < k → u.thr = thresh32 b)

theorem fastHolds_iff {b : Word32} {s : State} : FastHolds b s ↔
    SamplerHolds (FastDrawing b s.state s.inc) (FastDone b s.state s.inc) s := by
  constructor
  · intro h
    refine ⟨fun n hn => ?_, fun n hn => ?_⟩
    · obtain ⟨hb, hbnd, hrej, hlast, hdraw⟩ := h.running n hn
      exact ⟨⟨hb, hbnd, hrej, hlast⟩, hdraw⟩
    · obtain ⟨hbnd, hzero, hlast⟩ := h.finished n hn
      exact ⟨hbnd, hzero, hlast⟩
  · intro h
    refine ⟨fun n hn => ?_, fun n hn => ?_⟩
    · obtain ⟨⟨hb, hbnd, hrej, hlast⟩, hdraw⟩ := h.running n hn
      exact ⟨hb, hbnd, hrej, hlast, hdraw⟩
    · obtain ⟨hbnd, hzero, hlast⟩ := h.finished n hn
      exact ⟨hbnd, hzero, hlast⟩

theorem fastHolds_progress {s : State} {b : Word32} (hl : latched s = .fastBounded b) (h : FastHolds b s) :
    FastHolds b (progress s) := by
  have hedge : unitEdge (latched s) s = samplerEdge false fastIteration b s := by rw [hl]; rfl
  refine fastHolds_iff.mpr (samplerHolds_progress hedge ?setUpZero ?setUp ?reject ?accept (fastHolds_iff.mp h))
  case setUpZero => exact fun hb => ⟨by simp, fun _ => rfl, fun h0 => absurd hb h0⟩
  case setUp => exact fun hb => ⟨hb, by simp, by simp, by simp⟩
  case reject =>
    intro n u hu hresp
    obtain rfl := hu.bnd
    have hbelow : productLow u.bnd (nthDraw n s.state s.inc) < thresh32 u.bnd := by
      simpa [fastIteration_response hu.bound] using hresp
    refine ⟨hu.bound, by simp, Nat.forall_lt_succ_right.mpr ⟨hu.rejected, hbelow⟩, ?_⟩
    intro k hk
    obtain rfl : n = k := by omega
    exact ⟨by simp, by rw [fastIteration_thr, if_pos (BitVec.lt_trans hbelow (thresh32_lt hu.bound))]⟩
  case accept =>
    intro n u hu hresp
    obtain rfl := hu.bnd
    have hat : ¬ productLow u.bnd (nthDraw n s.state s.inc) < thresh32 u.bnd := by
      simpa [fastIteration_response hu.bound] using hresp
    refine ⟨by simp, fun h0 => absurd h0 hu.bound, fun _ => ⟨n, rfl, hu.rejected, hat, by simp, ?_⟩⟩
    intro hneeded
    rw [fastIteration_thr]
    split
    · rfl
    · rename_i hge
      obtain ⟨k, rfl⟩ := Nat.exists_eq_add_one.mpr (hneeded.resolve_left hge)
      exact (hu.last k rfl).2

/-! ### Every edge -/

theorem unitInv_progress {s : State} (hp : s.phase = .exec) (h : UnitInv s) : UnitInv (progress s) where
  random _ hl := drawHolds_progress hl (h.random hp hl)
  advance d _ hl := jumpHolds_progress (by rw [show latched s = _ from hl]; rfl) (h.advance d hp hl)
  retreat d _ hl := jumpHolds_progress (by rw [show latched s = _ from hl]; rfl) (h.retreat d hp hl)
  bounded b _ hl := boundedHolds_progress hl (h.bounded b hp hl)
  fastBounded b _ hl := fastHolds_progress hl (h.fastBounded b hp hl)

/-- R29 to R31: what the running units hold is kept by every edge. -/
theorem step_keeps_unitInv {s t : State} (h : UnitInv s) (hstep : step s = .next t) : UnitInv t := by
  obtain ⟨-, rfl⟩ | ⟨-, -, -, rfl⟩ | ⟨-, -, -, rfl⟩ | ⟨-, hp, -, rfl⟩ | ⟨-, -, -, hexec⟩ | ⟨-, -, -, rfl⟩ | ⟨-, -, -, rfl⟩ :=
    step_cases hstep
  · exact unitInv_of_phase_ne_exec nofun -- reset
  · exact unitInv_of_notSetUp rfl rfl -- acceptance
  · exact unitInv_tick h
  · exact unitInv_progress hp (unitInv_tick h)
  · rw [exec_next hexec] -- completion, which leaves EXEC
    exact unitInv_of_phase_ne_exec nofun
  · exact unitInv_of_phase_ne_exec nofun -- transfer of the response
  · exact unitInv_tick h

end Sys2Proof.Machine
end

section
/-! SUPPORT. What the running units' registers say of the command's result (R98, R123, R133). -/

namespace Sys2Proof.Machine

/-- The first number at which a property fails is one only. -/
theorem first_failure_unique {P : Nat → Prop} {k l : Nat} (hk : ∀ j < k, P j) (hPk : ¬ P k) (hl : ∀ j < l, P j)
    (hPl : ¬ P l) : k = l :=
  le_antisymm (not_lt.mp fun h => hPl (hk l h)) (not_lt.mp fun h => hPk (hl k h))

/-- R133: the final multiply-add of a running jump unit gives the `STATE` of the command. -/
theorem jumpUnit_apply_of_invariant {s t : State} {n : Nat} {d : Word64} (h : UnitInv s) (hp : s.phase = .exec)
    (hu : s.unitRun = .running n) (hl : latched s = .advance d ∨ latched s = .retreat d)
    (hexec : exec (latched s) s = .next t) : t.state = (s.jumpRegs.run 64).apply s.state := by
  obtain hl | hl := hl
  · rw [hl] at hexec
    cases hexec
    rw [(h.advance d hp hl).running n hu, jumpUnitAfter_apply]
    rfl
  · rw [hl] at hexec
    cases hexec
    rw [(h.retreat d hp hl).running n hu, jumpUnitAfter_apply]
    rfl

/-- R98: RANDOM's draw, once through the pipeline, leaves it as the response. -/
theorem random_answers_pipe_output {s : State} (h : UnitInv s) (hp : s.phase = .exec) (hl : latched s = .random)
    (hthrough : s.pipe.stages ≤ s.drawEdges) :
    ∃ t, exec (latched s) s = .next t ∧ t.rspData = s.pipe.output s.state := by
  refine ⟨respond (draw s).1 .completed (draw s).2, by rw [hl]; rfl, ?_⟩
  exact (drawnValue_eq_nthDraw (h.random hp hl) hthrough).symm

/-- R98: the draw under way in a bounded command, once through the pipeline, leaves it as the command's next draw. -/
theorem sampler_drawnValue_of_invariant {s : State} {n : Nat} {b : Word32} (h : UnitInv s) (hp : s.phase = .exec)
    (hu : s.unitRun = .running n) (hl : latched s = .bounded b ∨ latched s = .fastBounded b)
    (hthrough : s.pipe.stages ≤ s.drawEdges) : drawnValue n s = nthDraw n s.state s.inc := by
  refine drawnValue_eq_nthDraw ?_ hthrough
  obtain hl | hl := hl
  · exact ((boundedHolds_iff.mp (h.bounded b hp hl)).running n hu).2
  · exact ((fastHolds_iff.mp (h.fastBounded b hp hl)).running n hu).2

/-- R123: a BOUNDED unit that has accepted its draw holds what the command answers. -/
theorem boundedDone_result {b : Word32} {n : Nat} {s t : State} (hb : b ≠ 0)
    (h : BoundedDone b s.state s.inc n s.samplerRegs) (hexec : exec (.bounded b) s = .next t) :
    t.state = lcgSteps n s.state s.inc ∧ t.rspData = nthDraw (n - 1) s.state s.inc % s.samplerRegs.bnd ∧
      s.samplerRegs.thr ≤ nthDraw (n - 1) s.state s.inc := by
  obtain ⟨k, rfl, hthr, hrej, hat⟩ := h.last hb
  obtain ⟨h0, -⟩ | ⟨-, l, -, hrejected, haccepted, rfl⟩ := execBounded_next hexec
  · exact absurd h0 hb
  · obtain rfl := first_failure_unique hrej (BitVec.not_lt.mpr hat) hrejected haccepted
    exact ⟨rfl, by rw [h.bnd]; rfl, hthr ▸ hat⟩

/-- R123: a FAST_BOUNDED unit that has accepted its draw holds what the command answers. -/
theorem fastDone_result {b : Word32} {n : Nat} {s t : State} (hb : b ≠ 0)
    (h : FastDone b s.state s.inc n s.samplerRegs) (hexec : exec (.fastBounded b) s = .next t) :
    t.state = lcgSteps n s.state s.inc ∧ t.rspData = highHalf s.samplerRegs.prod ∧
      s.samplerRegs.prod = mul32x32 (nthDraw (n - 1) s.state s.inc) s.samplerRegs.bnd := by
  obtain ⟨k, rfl, hrej, hat, hprod, -⟩ := h.last hb
  obtain ⟨h0, -⟩ | ⟨-, l, -, hrejected, haccepted, rfl⟩ := execFastBounded_next hexec
  · exact absurd h0 hb
  · obtain rfl := first_failure_unique hrej hat hrejected haccepted
    exact ⟨rfl, by rw [hprod]; rfl, by rw [h.bnd]; exact hprod⟩

end Sys2Proof.Machine
end

section
/-! SUPPORT. The state invariant, edge by edge (R21, R27, R152, R174, R176). -/

namespace Sys2Proof.Machine

/-- R31: the pipeline has its `PERM_STAGES` registers in their places. -/
def PipeSized (p : PermPipe) : Prop :=
  p.between.length = Config.permStagesBetween ∧ p.after.length = Config.permStagesAfter

theorem pipeSized_freePipe (c : Nat) : PipeSized (freePipe c) := ⟨by simp, by simp⟩

theorem pipeSized_reset : PipeSized State.reset.pipe := ⟨by simp [State.reset], by simp [State.reset]⟩

theorem pipeSized_clockedPipe {s : State} (n : Nat) (h : PipeSized s.pipe) : PipeSized (clockedPipe n s) := by
  simpa [PipeSized, clockedPipe] using h

/-- R31: the pipeline is outside its use in a jump. -/
theorem jumpEdge_pipe (d : Word64) (s : State) : (jumpEdge d s).pipe = freePipe s.cycle := by
  unfold jumpEdge
  cases s.unitRun <;> rfl

/-- R98: the pipeline moves on while a bounded command draws, and is outside its use before and after. -/
theorem samplerEdge_pipe (early : Bool) (it : SamplerRegs → Word32 → SamplerStep) (b : Word32) (s : State) :
    (samplerEdge early it b s).pipe = freePipe s.cycle ∨ ∃ n, (samplerEdge early it b s).pipe = clockedPipe n s := by
  cases hu : s.unitRun with
  | notSetUp => exact .inl (by rw [samplerEdge_notSetUp _ _ _ hu]; rfl)
  | running n =>
    obtain h | ⟨-, ⟨-, h⟩ | ⟨-, h⟩⟩ := samplerEdge_running early it b hu <;> exact .inr ⟨n, by rw [h]⟩
  | finished n => exact .inl (by rw [samplerEdge_finished _ _ _ hu]; rfl)

/-- R98: an edge in EXEC moves the pipeline on in a draw, and otherwise leaves it free. -/
theorem unitEdge_pipe (i : Instr) (s : State) :
    (unitEdge i s).pipe = freePipe s.cycle ∨ ∃ n, (unitEdge i s).pipe = clockedPipe n s := by
  cases i with
  | init => exact .inl rfl
  | seed a q => exact .inl rfl
  | random => exact .inr ⟨0, rfl⟩
  | bounded b => exact samplerEdge_pipe _ _ b s
  | fastBounded b => exact samplerEdge_pipe _ _ b s
  | advance d => exact .inl (jumpEdge_pipe d s)
  | retreat d => exact .inl (jumpEdge_pipe _ s)
  | reserved => exact .inl rfl

theorem pipeSized_progress {s : State} (h : PipeSized s.pipe) : PipeSized (progress s).pipe := by
  rw [progress_pipe]
  obtain hfree | ⟨n, hclocked⟩ := unitEdge_pipe (latched s) s
  · rw [hfree]; exact pipeSized_freePipe _
  · rw [hclocked]; exact pipeSized_clockedPipe n h

/-- In IDLE the invariant says only that `INC` is odd and the pipeline has its registers. -/
theorem stateInv_of_idle {s : State} (hp : s.phase = .idle) (hodd : incOdd s) (hpipe : PipeSized s.pipe) :
    StateInv s :=
  ⟨hodd, by simp [hp], by simp [hp], by simp [hp], hpipe⟩

/-- In EXEC it also says that the completing edge is to come. -/
theorem stateInv_of_exec {s : State} (hp : s.phase = .exec) (hodd : incOdd s) (hpending : 1 ≤ s.latLeft)
    (hpipe : PipeSized s.pipe) : StateInv s :=
  ⟨hodd, fun _ => hpending, by simp [hp], by simp [hp], hpipe⟩

/-- The host's inputs moving on touch nothing of the block. -/
theorem stateInv_tick {s : State} (h : StateInv s) : StateInv (tick s) :=
  ⟨h.odd, h.pending, h.errIffReserved, h.errData, h.stages⟩

/-- What completes the latched command meets the invariant: its response carries the error bit exactly for the reserved
opcode, and then data 0. -/
theorem stateInv_of_completes {s t : State} (hodd : incOdd s) (hexec : exec (latched s) (completing s) = .next t) :
    StateInv t := by
  have hframe := exec_next hexec
  have hlatched : latched t = latched s := by rw [hframe]; rfl
  refine ⟨exec_incOdd hexec hodd, ?_, fun _ => ?_, fun _ herr => ?_, ?_⟩
  · rw [hframe]; exact nofun
  · rw [hlatched]; exact exec_rspErr_iff hexec
  · rw [(exec_rspErr_iff hexec).mp herr] at hexec
    exact (exec_of_reserved hexec).1
  · rw [hframe]; exact pipeSized_freePipe _

/-- R21, R152, R174, R176: every edge keeps the invariant. -/
theorem step_keeps_stateInv {s t : State} (h : StateInv s) (hstep : step s = .next t) : StateInv t := by
  obtain ⟨-, rfl⟩ | ⟨-, -, -, rfl⟩ | ⟨-, -, -, rfl⟩ | ⟨-, hp, hlat, rfl⟩ | ⟨-, -, -, hexec⟩ | ⟨-, -, -, rfl⟩ |
    ⟨-, -, -, rfl⟩ := step_cases hstep
  · exact stateInv_of_idle rfl (by decide : DEFAULT_INC.getLsbD 0 = true) pipeSized_reset -- reset
  · exact stateInv_of_exec rfl h.odd (Nat.le_add_left 1 _) h.stages -- acceptance: LAT is at least 1
  · exact stateInv_tick h
  · exact stateInv_of_exec hp h.odd (Nat.le_sub_one_of_lt hlat) (pipeSized_progress h.stages)
  · exact stateInv_of_completes (s := tick s) h.odd hexec
  · exact stateInv_of_idle rfl h.odd h.stages -- transfer of the response
  · exact stateInv_tick h

end Sys2Proof.Machine
end

section
/-! PROOFS. The statements about the state, its registers and its ports (10_state.md). -/

namespace Sys2Proof.Machine

/-- Settles O50, by the cases of an edge: each field of the invariant is kept or written by it. -/
theorem everyStepKeepsTheInvariant : Obligations.EveryStepKeepsTheInvariant :=
  fun _ _ => step_keeps_stateInv

/-- Settles O60: the units' invariant is kept edge by edge, and each running unit's part of it determines the result. -/
theorem runningUnitsHoldTheirWork : Obligations.RunningUnitsHoldTheirWork := by
  refine ⟨fun s t h hstep => step_keeps_unitInv h hstep, fun s n h hp => ⟨?jump, ?random, ?draw, ?done⟩⟩
  case jump => exact fun hu d t hl hexec => jumpUnit_apply_of_invariant h hp hu hl hexec
  case random => exact random_answers_pipe_output h hp
  case draw => exact fun hu b hl hthrough => sampler_drawnValue_of_invariant h hp hu hl hthrough
  case done =>
    intro hu b t hb
    constructor
    · intro hl hexec
      exact boundedDone_result hb ((boundedHolds_iff.mp (h.bounded b hp hl)).finished n hu) (hl ▸ hexec)
    · intro hl hexec
      exact fastDone_result hb ((fastHolds_iff.mp (h.fastBounded b hp hl)).finished n hu) (hl ▸ hexec)

/-- Settles O38: the frame of every completion, with `INC` and `STATE` where a command leaves them. -/
theorem commandsWriteOnlyTheirRegisters : Obligations.CommandsWriteOnlyTheirRegisters := by
  refine ⟨fun i s t h => ⟨exec_next h, exec_inc_eq h, ?_⟩, fun a q x c s => ⟨rfl, rfl⟩⟩
  rintro rfl
  exact (exec_of_reserved h).2

/-- Settles O48, by the kind of edge: none reads the hidden registers but to write hidden registers. -/
theorem hiddenRegistersAreUnobservable : Obligations.HiddenRegistersAreUnobservable := by
  refine fun s u => ⟨?_, rfl⟩
  cases hr : s.pins.rst with
  | true => rw [step_of_reset hr, step_of_reset (s := withUnits u s) hr]; rfl
  | false =>
    cases hp : s.phase with
    | idle =>
      rw [step_of_idle hr hp, step_of_idle (s := withUnits u s) hr hp, withUnits_pins]
      unfold idleEdge
      split <;> rfl
    | exec =>
      by_cases hl : s.latLeft ≤ 1
      · rw [step_of_completing hr hp hl, step_of_completing (s := withUnits u s) hr hp hl]
        rfl
      · have hl := Nat.not_le.mp hl
        rw [step_of_progress hr hp hl, step_of_progress (s := withUnits u s) hr hp hl]
        rfl
    | resp =>
      rw [step_of_resp hr hp, step_of_resp (s := withUnits u s) hr hp, withUnits_pins]
      unfold respEdge
      split <;> rfl

/-- Settles O39: the values stand in `State.reset`. -/
theorem resetLeavesTheDefaults : Obligations.ResetLeavesTheDefaults :=
  ⟨rfl, rfl, rfl, rfl, rfl⟩

/-- Settles O45: a placed word's next edge is its completing edge. -/
theorem placedWordRunsNext : Obligations.PlacedWordRunsNext := by
  intro s w hw
  have hword : w % 2 ^ 136 = w := Nat.mod_eq_of_lt (hw.trans (by decide))
  refine ⟨completing (tick (s.withFetchWord 136 w)), ?_, rfl, rfl, rfl⟩
  unfold State.withFetchWord
  rw [hword, step_of_completing (withAccepted_rst _ _) rfl (Nat.le_refl 1)]
  rfl

/-- Settles O46, by when each port shows its register. -/
theorem outputsShowPhaseAndRegisters : Obligations.OutputsShowPhaseAndRegisters := by
  refine ⟨fun s => ⟨cmdReady_iff s, rspValid_iff s, fun hp hr => ?_, fun hp hr => ?_⟩, fun s script => outputs_of_script⟩
  · have hvalid := (readbackValid_iff s).mpr ⟨hp, hr⟩
    exact ⟨if_pos hvalid, if_pos hvalid⟩
  · have hvalid := (rspValid_iff s).mpr ⟨hp, hr⟩
    exact ⟨if_pos hvalid, if_pos hvalid⟩

/-- Settles O49: after reset `INC` is the odd default and no unit runs. -/
theorem resetMeetsTheInvariant : Obligations.ResetMeetsTheInvariant :=
  ⟨stateInv_of_idle rfl (by decide) pipeSized_reset, unitInv_of_notSetUp rfl rfl, rfl, rfl, rfl⟩

end Sys2Proof.Machine
end

section
/-! SUPPORT. A run edge by edge, and the host's inputs along it (R174, R176; log 1). -/

namespace Sys2Proof.Machine

/-- A run that goes through makes its first edge and then the rest. -/
theorem runEdges_succ_eq_next {n : Nat} {s t : State} :
    runEdges (n + 1) s = .next t ↔ ∃ m, step s = .next m ∧ runEdges n m = .next t := by
  cases h : step s with
  | next m => simp [runEdges_succ h]
  | fault r => simp [runEdges, h]
  | refused r => simp [runEdges, h]

/-- One edge more at the end of a run. -/
theorem runEdges_succ_last {n : Nat} {s m : State} (h : runEdges n s = .next m) : runEdges (n + 1) s = step m := by
  induction n generalizing s with
  | zero =>
    cases h
    simp only [runEdges]
    cases step m <;> rfl
  | succ n ih =>
    obtain ⟨r, hstep, hrest⟩ := runEdges_succ_eq_next.mp h
    rw [runEdges_succ hstep, ih hrest]

/-- Every edge consumes one sample of the host's inputs. -/
theorem step_script {s t : State} (h : step s = .next t) : t.script = s.script.tail := by
  obtain ⟨-, rfl⟩ | ⟨-, -, -, rfl⟩ | ⟨-, -, -, rfl⟩ | ⟨-, -, -, rfl⟩ | ⟨-, -, -, hexec⟩ | ⟨-, -, -, rfl⟩ |
    ⟨-, -, -, rfl⟩ := step_cases h
  case inr.inr.inr.inr.inl => rw [exec_next hexec]; rfl -- completion
  all_goals rfl

theorem noReset_of_le {k n : Nat} {s : State} (h : noReset n s) (hle : k ≤ n) : noReset k s :=
  fun p hp => h p (List.take_subset_take_left _ hle hp)

/-- The coming edge of a run without reset is no reset edge. -/
theorem rst_of_noReset {n : Nat} {s : State} (h : noReset (n + 1) s) : s.pins.rst = false := by
  cases hs : s.script with
  | nil => rw [pins_nil s hs]; rfl
  | cons p rest => rw [pins_cons s p rest hs]; exact h p (by simp [hs])

theorem noReset_step {n : Nat} {s t : State} (h : noReset (n + 1) s) (hstep : step s = .next t) : noReset n t := by
  intro p hp
  rw [step_script hstep] at hp
  cases hs : s.script with
  | nil => simp [hs] at hp
  | cons q rest =>
    rw [hs] at hp
    exact h p (by rw [hs]; exact List.mem_cons_of_mem q hp)

theorem noReset_runEdges {k n : Nat} {s m : State} (h : noReset (k + n) s) (hrun : runEdges k s = .next m) :
    noReset n m := by
  induction k generalizing s with
  | zero =>
    cases hrun
    rwa [Nat.zero_add] at h
  | succ k ih =>
    obtain ⟨t, hstep, hrest⟩ := runEdges_succ_eq_next.mp hrun
    rw [Nat.add_right_comm] at h
    exact ih (noReset_step h hstep) hrest

/-- R177: an accepting edge puts the offered command in EXEC. -/
theorem step_of_accepts {s : State} (h : accepts s) : step s = .next (acceptCommand s.pins (tick s)) := by
  obtain ⟨hp, hr, hv⟩ := h
  rw [step_of_idle hr hp, idleEdge, if_pos hv]

end Sys2Proof.Machine
end

section
/-! SUPPORT. A command from its accepting edge to its completing one (R49, R174, R176, R179). -/

namespace Sys2Proof.Machine

/-- R176, R179: `m` stands in EXEC with the command accepted in `s` in its latch, `k` of the `LAT` edges behind it, and
the registers of `s` untouched (log 17). -/
structure UnderWay (s : State) (k : Nat) (m : State) : Prop where
  phase : m.phase = .exec
  latch : latched m = offered s
  remaining : m.latLeft + k = offeredLatency s
  state : m.state = s.state
  inc : m.inc = s.inc
  rspData : m.rspData = s.rspData
  rspErr : m.rspErr = s.rspErr
  taken : m.taken = s.taken

/-- R177: the accepting edge starts the count to `LAT`. -/
theorem underWay_acceptCommand (s : State) : UnderWay s 0 (acceptCommand s.pins (tick s)) :=
  ⟨rfl, rfl, rfl, rfl, rfl, rfl, rfl, rfl⟩

/-- R176: an edge before the completing one only counts on. -/
theorem UnderWay.progress {s m : State} {k : Nat} (h : UnderWay s k m) (hl : 1 < m.latLeft) :
    UnderWay s (k + 1) (progress (tick m)) where
  phase := h.phase
  latch := h.latch
  remaining := by
    have hcount := h.remaining
    simp only [progress_latLeft, tick_latLeft]
    omega
  state := h.state
  inc := h.inc
  rspData := h.rspData
  rspErr := h.rspErr
  taken := h.taken

/-- R174, R176: without reset an accepted command is under way after each of the edges 1 to `LAT`. -/
theorem runEdges_underWay {s : State} (ha : accepts s) {k : Nat} (hk : k < offeredLatency s)
    (hr : noReset (k + 1) s) : ∃ m, runEdges (k + 1) s = .next m ∧ UnderWay s k m := by
  induction k with
  | zero => exact ⟨_, runEdges_succ (step_of_accepts ha), underWay_acceptCommand s⟩
  | succ k ih =>
    obtain ⟨m, hrun, hm⟩ := ih (Nat.lt_of_succ_lt hk) (noReset_of_le hr (Nat.le_succ _))
    have hrst : m.pins.rst = false := rst_of_noReset (n := 0) (noReset_runEdges hr hrun)
    have hpending : 1 < m.latLeft := by
      have hcount := hm.remaining
      omega
    exact ⟨progress (tick m), by rw [runEdges_succ_last hrun, step_of_progress hrst hm.phase hpending],
      hm.progress hpending⟩

/-- R32, R49, R179: the completing edge commits what the command's meaning gives on the registers held since
acceptance. -/
theorem UnderWay.step_completing {s m u : State} {k : Nat} (h : UnderWay s k m) (hlast : k + 1 = offeredLatency s)
    (hr : m.pins.rst = false) (hexec : exec (offered s) s = .next u) :
    step m = .next (transport (completing (tick m)) u) := by
  have hl : m.latLeft ≤ 1 := by
    have hcount := h.remaining
    omega
  rw [step_of_completing hr h.phase hl, h.latch, exec_transport (offered s) s (completing (tick m)) h.state h.inc,
    hexec]
  rfl

/-- R174, R179: the `LAT`-th edge after acceptance is the completing one. -/
theorem runEdges_completes {s u : State} (ha : accepts s) (hr : noReset (1 + offeredLatency s) s)
    (hexec : exec (offered s) s = .next u) :
    ∃ m, UnderWay s (offeredLatency s - 1) m ∧
      runEdges (1 + offeredLatency s) s = .next (transport (completing (tick m)) u) := by
  obtain ⟨k, hk⟩ : ∃ k, offeredLatency s = k + 1 := ⟨_, rfl⟩
  rw [hk, Nat.add_comm 1] at hr ⊢
  obtain ⟨m, hrun, hm⟩ := runEdges_underWay ha (hk ▸ Nat.lt_succ_self k) (noReset_of_le hr (Nat.le_succ _))
  have hrst : m.pins.rst = false := rst_of_noReset (n := 0) (noReset_runEdges hr hrun)
  exact ⟨m, hm, by rw [runEdges_succ_last hrun, hm.step_completing hk.symm hrst hexec]⟩

end Sys2Proof.Machine
end

section
/-! SUPPORT. Commands served in order depend on `STATE`, `INC` and the responses taken alone, and every edge keeps what a
run still leaves (R24, R32, R52, R187). -/

namespace Sys2Proof.Machine

theorem mapNext_eq_next {f : State → State} {o : Host.Outcome State Fault Refusal} {v : State}
    (h : mapNext f o = .next v) : ∃ u, o = .next u ∧ f u = v := by
  cases o with
  | next u => exact ⟨u, rfl, Host.Outcome.next.inj h⟩
  | fault r => cases h
  | refused r => cases h

theorem mapNext_eq_fault {f : State → State} {o : Host.Outcome State Fault Refusal} {r : Fault}
    (h : mapNext f o = .fault r) : o = .fault r := by
  cases o with
  | next u => cases h
  | fault r' => exact h
  | refused r' => cases h

theorem mapNext_eq_refused {f : State → State} {o : Host.Outcome State Fault Refusal} {r : Refusal}
    (h : mapNext f o = .refused r) : o = .refused r := by
  cases o with
  | next u => cases h
  | fault r' => cases h
  | refused r' => exact h

/-- R52: what serving commands reads and leaves: `STATE`, `INC` and the responses taken, every other field at reset. -/
def serviceView (s : State) : State :=
  { State.reset with state := s.state, inc := s.inc, taken := s.taken }

theorem serviceView_eq_iff {s s' : State} :
    serviceView s = serviceView s' ↔ s.state = s'.state ∧ s.inc = s'.inc ∧ s.taken = s'.taken := by
  simp [serviceView]

/-- R32: a command served on states with the same view leaves the same view. -/
theorem serve_congr (i : Instr) {s s' : State} (h : serviceView s = serviceView s') :
    mapNext serviceView (serve i s) = mapNext serviceView (serve i s') := by
  obtain ⟨hstate, hinc, htaken⟩ := serviceView_eq_iff.mp h
  unfold serve
  rw [exec_transport i s s' hstate.symm hinc.symm]
  cases hexec : exec i s with
  | next t =>
    have ht : t.taken = s'.taken := by rw [exec_next hexec]; exact htaken
    refine congrArg Host.Outcome.next (serviceView_eq_iff.mpr ⟨rfl, rfl, ?_⟩)
    rw [takeResponse_taken, ht]
    rfl
  | fault r => rfl
  | refused r => rfl

/-- R52, R187: and so do the commands of a list. -/
theorem serveAll_congr (is : List Instr) {s s' : State} (h : serviceView s = serviceView s') :
    mapNext serviceView (serveAll is s) = mapNext serviceView (serveAll is s') := by
  induction is generalizing s s' with
  | nil => exact congrArg Host.Outcome.next h
  | cons i rest ih =>
    have hserve := serve_congr i h
    unfold serveAll
    cases hs : serve i s with
    | next t =>
      rw [hs] at hserve
      obtain ⟨t', hs', ht⟩ := mapNext_eq_next hserve.symm
      rw [hs']
      exact ih ht.symm
    | fault r =>
      rw [hs] at hserve
      rw [mapNext_eq_fault hserve.symm]
    | refused r =>
      rw [hs] at hserve
      rw [mapNext_eq_refused hserve.symm]

theorem serveAll_cons_of_exec {i : Instr} {s t : State} (rest : List Instr) (h : exec i s = .next t) :
    serveAll (i :: rest) s = serveAll rest (takeResponse t) := by
  simp [serveAll, serve, h]

/-- R24, R52: what the block still has to serve where the commands `later` follow: in EXEC the latched command first, in
RESP the response to be taken. -/
def serveFrom (later : List Instr) (s : State) : Host.Outcome State Fault Refusal :=
  match s.phase with
  | .idle => serveAll later s
  | .exec => serveAll (latched s :: later) s
  | .resp => serveAll later (takeResponse s)

theorem serveFrom_of_idle {s : State} (later : List Instr) (hp : s.phase = .idle) :
    serveFrom later s = serveAll later s := by
  simp [serveFrom, hp]

theorem serveFrom_of_exec {s : State} (later : List Instr) (hp : s.phase = .exec) :
    serveFrom later s = serveAll (latched s :: later) s := by
  simp [serveFrom, hp]

theorem serveFrom_of_resp {s : State} (later : List Instr) (hp : s.phase = .resp) :
    serveFrom later s = serveAll later (takeResponse s) := by
  simp [serveFrom, hp]

/-- The host's inputs moving on change nothing to be served. -/
theorem serveFrom_tick (later : List Instr) (s : State) :
    mapNext serviceView (serveFrom later (tick s)) = mapNext serviceView (serveFrom later s) := by
  unfold serveFrom
  cases hp : s.phase <;> simp only [tick_phase, hp] <;> exact serveAll_congr _ rfl

theorem acceptedNow_of_accepts {s : State} (h : accepts s) : acceptedNow s = some (offered s) := by
  obtain ⟨hp, hr, hv⟩ := h
  simp [acceptedNow, (cmdReady_iff s).mpr ⟨hp, hr⟩, hv]

theorem acceptedNow_of_not_idle {s : State} (hp : s.phase ≠ .idle) : acceptedNow s = none := by
  simp [acceptedNow, cmdReady, hp]

theorem acceptedNow_of_no_offer {s : State} (hv : s.pins.cmdValid = false) : acceptedNow s = none := by
  simp [acceptedNow, hv]

/-- R24, R187: an edge without reset moves the block on in what there is to serve, and changes none of it. -/
theorem serveFrom_step {s t : State} (later : List Instr) (hr : s.pins.rst = false) (hstep : step s = .next t) :
    mapNext serviceView (serveFrom ((acceptedNow s).toList ++ later) s) =
      mapNext serviceView (serveFrom later t) := by
  obtain ⟨hrst, -⟩ | ⟨-, hp, hv, rfl⟩ | ⟨-, -, hv, rfl⟩ | ⟨-, hp, -, rfl⟩ | ⟨-, hp, -, hexec⟩ | ⟨-, hp, -, rfl⟩ |
    ⟨-, hp, -, rfl⟩ := step_cases hstep
  · rw [hr] at hrst
    cases hrst
  · -- acceptance: the offered command is the first to serve, and then the latched one
    rw [acceptedNow_of_accepts ⟨hp, hr, hv⟩, serveFrom_of_idle _ hp, serveFrom_of_exec _ rfl]
    exact serveAll_congr (offered s :: later) rfl
  · rw [acceptedNow_of_no_offer hv]
    exact (serveFrom_tick later s).symm
  · rw [acceptedNow_of_not_idle (by simp [hp]), serveFrom_of_exec _ hp, serveFrom_of_exec (s := progress (tick s)) _ hp]
    exact serveAll_congr (latched s :: later) rfl
  · -- completion: the latched command is served but for its response, which is to be taken
    have hphase : t.phase = .resp := by rw [exec_next hexec]
    rw [acceptedNow_of_not_idle (by simp [hp]), serveFrom_of_exec _ hp, serveFrom_of_resp _ hphase,
      ← serveAll_cons_of_exec later hexec]
    exact serveAll_congr (latched s :: later) rfl
  · -- transfer of the response
    rw [acceptedNow_of_not_idle (by simp [hp]), serveFrom_of_resp _ hp, serveFrom_of_idle _ rfl]
    exact serveAll_congr later rfl
  · rw [acceptedNow_of_not_idle (by simp [hp])]
    exact (serveFrom_tick later s).symm

/-- R24, R52, R187: along a run without reset to an idle state, what there is to serve at its start, with the commands
accepted on the way, leaves the view of its end. -/
theorem serveFrom_acceptedAlong {n : Nat} {s t : State} (hr : noReset n s) (hrun : runEdges n s = .next t)
    (hp : t.phase = .idle) :
    mapNext serviceView (serveFrom (acceptedAlong n s) s) = .next (serviceView t) := by
  induction n generalizing s with
  | zero =>
    cases hrun
    rw [serveFrom_of_idle _ hp]
    rfl
  | succ n ih =>
    obtain ⟨m, hstep, hrest⟩ := runEdges_succ_eq_next.mp hrun
    rw [acceptedAlong_succ hstep, serveFrom_step _ (rst_of_noReset hr) hstep]
    exact ih (noReset_step hr hstep) hrest

end Sys2Proof.Machine
end

section
/-! PROOFS. The statements about command order and latency (20_memory.md). -/

namespace Sys2Proof.Machine

/-- Settles O52, by counting the edges since acceptance; the completing one runs the command on the registers held. -/
theorem commandCompletesAtItsLatency : Obligations.CommandCompletesAtItsLatency := by
  intro s u ha hr hexec
  constructor
  · intro k hk hle
    obtain ⟨j, rfl⟩ := Nat.exists_eq_add_of_le' hk
    obtain ⟨m, hrun, hm⟩ := runEdges_underWay ha hle (noReset_of_le hr (Nat.le_add_left_of_le hle))
    exact ⟨m, hrun, hm.phase, hm.state, hm.inc, hm.rspData, hm.rspErr⟩
  · obtain ⟨m, hm, hrun⟩ := runEdges_completes ha hr hexec
    exact ⟨_, hrun, rfl, rfl, rfl, rfl, rfl, hm.taken⟩

/-- Settles O53, by induction on the edges: each keeps what the block's phase and the commands still to be accepted leave
when they are served in order. -/
theorem runsEqualCommandsInOrder : Obligations.RunsEqualCommandsInOrder := by
  intro n s t hidle _ hr hrun hp
  have hview := serveFrom_acceptedAlong hr hrun hp
  rw [serveFrom_of_idle _ hidle] at hview
  obtain ⟨u, hserve, hu⟩ := mapNext_eq_next hview
  exact ⟨u, hserve, serviceView_eq_iff.mp hu.symm⟩

end Sys2Proof.Machine
end

section
/-! SUPPORT. The decoder and the encoder field by field (R60 to R64, R66, R70). -/

namespace Sys2Proof

/-- R60, R63: a word put together from its fields decodes by them. -/
@[simp] theorem decode_commandWord (op : Opcode) (b a : Word64) :
    decode (commandWord op b a) = decodeFields op a b := by
  simp [decode]

/-- R64: `bound = A[31:0]`, whichever way the low half is written. -/
theorem boundField_eq_setWidth (a : Word64) : boundField a = a.setWidth 32 :=
  (BitVec.setWidth_eq_extractLsb' (by decide)).symm

/-- R62, R70: the code and the operands of an instruction decode to it. -/
theorem decodeFields_operands (i : Instr) : decodeFields (opcodeOf i) (aOperand i) (bOperand i) = i := by
  cases i with
  | init | seed | random | advance | retreat | reserved => rfl
  | bounded b => exact congrArg Instr.bounded (boundField_zeroExtend b)
  | fastBounded b => exact congrArg Instr.fastBounded (boundField_zeroExtend b)

/-- R62: the row decoded is the row of `OP`. -/
theorem opcodeOf_decodeFields (op : Opcode) (a b : Word64) : opcodeOf (decodeFields op a b) = op := by
  rcases opcode_cases op with rfl | rfl | rfl | rfl | rfl | rfl | rfl | rfl <;> rfl

/-- R61, R66: what stands in an ignored field does not change the decoded instruction. -/
theorem decodeFields_of_ignored {op : Opcode} {a b a' b' : Word64}
    (h : (op = 0#3 ∨ op = 2#3 ∨ op = 7#3) ∨
      ((op = 3#3 ∨ op = 4#3) ∧ a.setWidth 32 = a'.setWidth 32) ∨ ((op = 5#3 ∨ op = 6#3) ∧ a = a')) :
    decodeFields op a b = decodeFields op a' b' := by
  obtain hop | ⟨hop, ha⟩ | ⟨hop, rfl⟩ := h
  · rcases hop with rfl | rfl | rfl <;> rfl -- format N
  · rcases hop with rfl | rfl <;> simp [boundField_eq_setWidth, ha] -- format A32
  · rcases hop with rfl | rfl <;> rfl -- format A64

/-- R66, R70: only SEED has anything in `B`. -/
theorem bField_encode_eq_zero {i : Instr} (h : ∀ a q, i ≠ .seed a q) : bField (encode i) = 0 := by
  rw [encode, bField_commandWord]
  cases i with
  | seed a q => exact absurd rfl (h a q)
  | init | random | bounded | fastBounded | advance | retreat | reserved => rfl

/-- R66, R70: an instruction of format N has nothing in `A`. -/
theorem aField_encode_eq_zero {i : Instr} (h : i = .init ∨ i = .random ∨ i = .reserved) : aField (encode i) = 0 := by
  rw [encode, aField_commandWord]
  rcases h with rfl | rfl | rfl <;> rfl

/-- R70: a bound zero-extended to 64 bits has nothing in its high half. -/
theorem zeroExtend_shiftRight_32 (b : Word32) : (b.setWidth 64 : Word64) >>> 32 = 0#64 := by
  rw [← BitVec.setWidth_ushiftRight (by decide), BitVec.ushiftRight_eq_zero (Nat.le_refl 32), BitVec.setWidth_zero]

end Sys2Proof
end

section
/-! SUPPORT. The ignored fields of a command in the latch, and of one offered (R66, R177, R179). -/

namespace Sys2Proof.Machine

/-- An instruction neither reads nor writes the operand words in the latch. -/
theorem exec_withLatchedOperands (i : Instr) (a b : Word64) (s : State) :
    exec i (withLatchedOperands a b s) = mapNext (withLatchedOperands a b) (exec i s) := by
  rw [exec_transport i s (withLatchedOperands a b s) rfl rfl]
  cases h : exec i s with
  | next t =>
    rw [exec_next h]
    rfl
  | fault r => rfl
  | refused r => rfl

/-- The units' edge before the completing one reads the latch through the decoded command alone. -/
theorem progress_withLatchedOperands {a b : Word64} {s : State}
    (h : decodeFields s.cmdOp a b = decodeFields s.cmdOp s.cmdA s.cmdB) :
    progress (withLatchedOperands a b s) = withLatchedOperands a b (progress s) := by
  have hl : latched (withLatchedOperands a b s) = latched s := h
  unfold progress
  rw [hl]
  rfl

/-- An edge in RESP does not read the latch. -/
theorem respEdge_withLatchedOperands (p : Pins) (a b : Word64) (s : State) :
    respEdge p (withLatchedOperands a b s) = withLatchedOperands a b (respEdge p s) := by
  unfold respEdge
  split <;> rfl

/-- R66: an edge in EXEC or RESP sees the operand words in the latch through the decoded command alone. -/
theorem step_withLatchedOperands {a b : Word64} {s : State} (hp : s.phase ≠ .idle) (hr : s.pins.rst = false)
    (h : decodeFields s.cmdOp a b = decodeFields s.cmdOp s.cmdA s.cmdB) :
    step (withLatchedOperands a b s) = mapNext (withLatchedOperands a b) (step s) := by
  have hl : latched (withLatchedOperands a b s) = latched s := h
  cases hphase : s.phase with
  | idle => exact absurd hphase hp
  | exec =>
    by_cases hlast : s.latLeft ≤ 1
    · rw [step_of_completing hr hphase hlast, step_of_completing (s := withLatchedOperands a b s) hr hphase hlast, hl]
      exact exec_withLatchedOperands _ a b (completing (tick s))
    · have hlast := Nat.not_le.mp hlast
      rw [step_of_progress hr hphase hlast, step_of_progress (s := withLatchedOperands a b s) hr hphase hlast]
      exact congrArg _ (progress_withLatchedOperands (s := tick s) h)
  | resp =>
    rw [step_of_resp hr hphase, step_of_resp (s := withLatchedOperands a b s) hr hphase]
    exact congrArg _ (respEdge_withLatchedOperands s.pins a b (tick s))

/-- R66, R177: acceptance sees the offered operand words through the decoded command alone, but for the latch. -/
theorem acceptCommand_of_ignored {p : Pins} {a b : Word64} (s : State)
    (h : decodeFields p.cmdOp a b = decodeFields p.cmdOp p.cmdA p.cmdB) :
    acceptCommand { p with cmdA := a, cmdB := b } s = withLatchedOperands a b (acceptCommand p s) := by
  simp [acceptCommand, withLatchedOperands, h]

end Sys2Proof.Machine
end

section
/-! SUPPORT. What the assembler accepts and refuses (R69 to R71). -/

namespace Sys2Proof.Machine

/-- Every name has an instruction for as many operands as it takes. -/
theorem instrOfName_of_length {name : AsmName} {ns : List Nat} (h : ns.length = name.operandLimits.length) :
    ∃ i, instrOfName name ns = .ok i := by
  cases name
  case init | random | new | discard =>
    obtain rfl := List.length_eq_zero_iff.mp h
    exact ⟨_, rfl⟩
  case bounded | fastBounded | advance | retreat | skip | back =>
    obtain ⟨n, rfl⟩ := List.length_eq_one_iff.mp h
    exact ⟨_, rfl⟩
  case seed =>
    obtain ⟨m, n, rfl⟩ := List.length_eq_two.mp h
    exact ⟨_, rfl⟩

/-- R70: no name stands for the reserved opcode. -/
theorem assemblable_of_instrOfName {name : AsmName} {ns : List Nat} {i : Instr} (h : instrOfName name ns = .ok i) :
    i.assemblable = true := by
  unfold instrOfName at h
  split at h <;> cases h <;> rfl

theorem opcodeOf_ne_7_of_assemblable {i : Instr} (h : i.assemblable = true) : opcodeOf i ≠ 7#3 := by
  cases i with
  | reserved => cases h
  | init | seed | random | bounded | fastBounded | advance | retreat => simp [opcodeOf]

/-- R69: a missing or extra operand is refused as that. -/
theorem assemble_of_count_ne {l : AsmLine} (h : l.operands.length ≠ l.name.operandLimits.length) :
    assemble l = .error .operandCount := by
  simp [assemble, assembleInstr, AsmLine.countOk, h]

/-- R69: the right number of operands with one out of range is refused as that. -/
theorem assemble_of_out_of_range {l : AsmLine} (hc : l.countOk = true) (hr : l.rangeOk = false) :
    assemble l = .error .operandRange := by
  simp [assemble, assembleInstr, hc, hr]

/-- R70: a well-formed line assembles to the word of its instruction. -/
theorem assemble_of_wellFormed {l : AsmLine} {i : Instr} (hw : l.wellFormed = true)
    (hi : instrOfName l.name l.operands = .ok i) : assemble l = .ok (encode i) := by
  obtain ⟨hc, hr⟩ := Bool.and_eq_true_iff.mp hw
  simp [assemble, assembleInstr, hc, hr, hi]

/-- R69: the assembler accepts exactly the well-formed lines. -/
theorem assembles_iff_wellFormed (l : AsmLine) : (∃ cw, assemble l = .ok cw) ↔ l.wellFormed = true := by
  constructor
  · rintro ⟨cw, h⟩
    exact (assemble_ok h).1
  · intro hw
    have hc : l.countOk = true := (Bool.and_eq_true_iff.mp hw).1
    obtain ⟨i, hi⟩ := instrOfName_of_length (beq_iff_eq.mp hc)
    exact ⟨_, assemble_of_wellFormed hw hi⟩

/-- R71: names with the same operand ranges and the same instructions assemble alike. -/
theorem assemble_congr {name name' : AsmName} {ns : List Nat} (hlimits : name.operandLimits = name'.operandLimits)
    (hinstr : instrOfName name ns = instrOfName name' ns) : assemble ⟨name, ns⟩ = assemble ⟨name', ns⟩ := by
  have hcount : AsmLine.countOk ⟨name, ns⟩ = AsmLine.countOk ⟨name', ns⟩ := by simp only [AsmLine.countOk, hlimits]
  have hrange : AsmLine.rangeOk ⟨name, ns⟩ = AsmLine.rangeOk ⟨name', ns⟩ := by simp only [AsmLine.rangeOk, hlimits]
  unfold assemble assembleInstr
  rw [hcount, hrange, hinstr]

/-- R69: one operand is accepted exactly below its limit. -/
theorem wellFormed_one {name : AsmName} {limit : Nat} (h : name.operandLimits = [limit]) (n : Nat) :
    (AsmLine.wellFormed ⟨name, [n]⟩ = true) ↔ n < limit := by
  simp [AsmLine.wellFormed, AsmLine.countOk, AsmLine.rangeOk, h]

/-- R69: SEED's two operands are accepted exactly below `2^64`. -/
theorem wellFormed_seed (m n : Nat) :
    (AsmLine.wellFormed ⟨.seed, [m, n]⟩ = true) ↔ m < 2 ^ 64 ∧ n < 2 ^ 64 := by
  simp [AsmLine.wellFormed, AsmLine.countOk, AsmLine.rangeOk, AsmName.operandLimits]

/-- R70: a line with one operand in range assembles to the word of its instruction. -/
theorem assemble_one {name : AsmName} {limit n : Nat} {i : Instr} (hlimits : name.operandLimits = [limit])
    (hn : n < limit) (hi : instrOfName name [n] = .ok i) : assemble ⟨name, [n]⟩ = .ok (encode i) :=
  assemble_of_wellFormed ((wellFormed_one hlimits n).mpr hn) hi

end Sys2Proof.Machine
end

section
/-! SUPPORT. The bit of a sequence without effect (R65), and a jump by one step (R71). -/

namespace Sys2Proof.Machine

/-- R82: `INC` holds the sequence one place up, without its bit 63. -/
theorem incOfSequence_getLsbD_succ (q : Word64) {i : Nat} (hi : i < 63) :
    (incOfSequence q).getLsbD (i + 1) = q.getLsbD i := by
  simp [incOfSequence, show i < 64 by omega, show i + 1 < 64 by omega]

/-- R65: flipping bit 63 of a sequence leaves its `INC`. -/
theorem incOfSequence_xor_bit63 (q : Word64) : incOfSequence (q ^^^ 0x8000000000000000#64) = incOfSequence q := by
  simp [incOfSequence, BitVec.shiftLeft_xor_distrib]

/-- Two words that agree below bit 63 are equal, or differ in bit 63 alone. -/
theorem eq_or_eq_xor_bit63 {q q' : Word64} (h : ∀ i < 63, q.getLsbD i = q'.getLsbD i) :
    q = q' ∨ q = q' ^^^ 0x8000000000000000#64 := by
  have hbit : ∀ i, (0x8000000000000000#64).getLsbD i = decide (63 = i) := BitVec.getLsbD_twoPow (w := 64) 63
  by_cases h63 : q.getLsbD 63 = q'.getLsbD 63
  · left
    apply BitVec.eq_of_getLsbD_eq
    intro i hi
    rcases Nat.lt_succ_iff_lt_or_eq.mp hi with hi | rfl
    · exact h i hi
    · exact h63
  · right
    apply BitVec.eq_of_getLsbD_eq
    intro i hi
    rw [BitVec.getLsbD_xor, hbit]
    rcases Nat.lt_succ_iff_lt_or_eq.mp hi with hi | rfl
    · simp [h i hi, hi.ne']
    · simpa [Bool.eq_not] using h63

/-- R65: two sequences select the same stream exactly where they agree but for bit 63. -/
theorem incOfSequence_eq_iff (q q' : Word64) :
    incOfSequence q = incOfSequence q' ↔ q = q' ∨ q = q' ^^^ 0x8000000000000000#64 := by
  constructor
  · intro h
    refine eq_or_eq_xor_bit63 fun i hi => ?_
    rw [← incOfSequence_getLsbD_succ q hi, h, incOfSequence_getLsbD_succ q' hi]
  · rintro (rfl | rfl)
    · rfl
    · exact incOfSequence_xor_bit63 q'

/-- SEED's sequence enters its outcome through `INC` alone, and shows there. -/
theorem exec_seed_eq_iff (a q q' : Word64) (s : State) :
    exec (.seed a q) s = exec (.seed a q') s ↔ incOfSequence q = incOfSequence q' := by
  constructor
  · intro h
    exact congrArg State.inc (Host.Outcome.next.inj h)
  · intro h
    simp only [exec, execSeed, h]

/-- R131: a jump by one is one step: the loop folds the step in once and has no count left. -/
theorem jump_one (s c : Word64) : jump s c 1#64 = lcgStep s c := by
  have hdone : (JumpRegs.load c 1#64).iterate.deltaRem = 0#64 := by rw [iterate_deltaRem, load_deltaRem]; rfl
  rw [jump, run_succ_of_count (by simp), run_of_done hdone]
  simp [JumpRegs.apply, iterate_acc, lcgStep]

end Sys2Proof.Machine
end

section
/-! PROOFS. The statements about command words and the assembler (30_encoding.md). -/

namespace Sys2Proof.Machine

/-- Settles O1: the fields of the encoder's word are the code and the operands of the instruction, which decode to it. -/
theorem decodeReadsBackEncode : Obligations.DecodeReadsBackEncode := by
  intro i
  rw [encode, decode_commandWord, decodeFields_operands]

/-- Settles O2, by the row of each code; a word is its three fields put together. -/
theorem opcodeAloneSelectsTheCommand : Obligations.OpcodeAloneSelectsTheCommand := by
  constructor
  · intro a b
    simp [boundField_eq_setWidth]
  · intro cw
    exact ⟨opField cw, bField cw, aField cw, (commandWord_of_fields cw).symm, opcodeOf_decodeFields _ _ _⟩

/-- Settles O3: the decoder drops an ignored field, an edge and an acceptance see the operand words through the decoder
alone, and the encoder leaves the field zero. -/
theorem ignoredFieldsHaveNoEffect : Obligations.IgnoredFieldsHaveNoEffect := by
  refine ⟨fun op a b a' b' => decodeFields_of_ignored, fun s a' b' => step_withLatchedOperands,
    fun s p a' b' => acceptCommand_of_ignored s, fun i => bField_encode_eq_zero, fun i => aField_encode_eq_zero, ?_⟩
  intro b
  rw [encode, encode, aField_commandWord, aField_commandWord]
  exact ⟨zeroExtend_shiftRight_32 b, zeroExtend_shiftRight_32 b⟩

/-- Settles O4, by evaluating the decoder on each word. -/
theorem writtenWordsDecode : Obligations.WrittenWordsDecode := by
  unfold Obligations.WrittenWordsDecode
  decide

/-- Settles O5: each line is well-formed and its word is the encoding of its instruction; no name has the code 7. -/
theorem assemblyToCommandWords : Obligations.AssemblyToCommandWords := by
  refine ⟨rfl, fun a q => ?seed, rfl, fun b => ?bounded, fun b => ?fastBounded, fun d => ?advance, fun d => ?retreat,
    fun l cw h => ?reserved, by decide, by decide⟩
  case seed =>
    exact assemble_of_wellFormed (i := .seed a q) ((wellFormed_seed _ _).mpr ⟨a.isLt, q.isLt⟩) (by simp [instrOfName])
  case bounded => exact assemble_one (i := .bounded b) rfl b.isLt (by simp [instrOfName])
  case fastBounded => exact assemble_one (i := .fastBounded b) rfl b.isLt (by simp [instrOfName])
  case advance => exact assemble_one (i := .advance d) rfl d.isLt (by simp [instrOfName])
  case retreat => exact assemble_one (i := .retreat d) rfl d.isLt (by simp [instrOfName])
  case reserved =>
    obtain ⟨-, i, hi, rfl⟩ := assemble_ok h
    rw [encode, opField_commandWord]
    exact opcodeOf_ne_7_of_assemblable (assemblable_of_instrOfName hi)

/-- Settles O6: the assembler accepts exactly the well-formed lines, and a line that is not fails in its number of
operands or in a range. -/
theorem assemblerRefusesBadOperands : Obligations.AssemblerRefusesBadOperands := by
  refine ⟨fun l => assemble_of_count_ne, fun m n => (assembles_iff_wellFormed _).trans (wellFormed_seed m n), ?_, ?_, ?_⟩
  · rintro name n (rfl | rfl) <;> exact (assembles_iff_wellFormed _).trans (wellFormed_one rfl n)
  · rintro name n (rfl | rfl | rfl | rfl) <;> exact (assembles_iff_wellFormed _).trans (wellFormed_one rfl n)
  · intro l
    by_cases hc : l.operands.length = l.name.operandLimits.length
    · have hc : l.countOk = true := beq_iff_eq.mpr hc
      cases hr : l.rangeOk with
      | true => exact .inl ((assembles_iff_wellFormed l).mpr (Bool.and_eq_true_iff.mpr ⟨hc, hr⟩))
      | false => exact .inr (.inr (assemble_of_out_of_range hc hr))
    · exact .inr (.inl (assemble_of_count_ne hc))

/-- Settles O7: each pseudo-command has its expansion's ranges and instruction, and a jump by one is the step RANDOM
makes. -/
theorem pseudoCommandsExpand : Obligations.PseudoCommandsExpand := by
  refine ⟨assemble_congr rfl rfl, fun n => assemble_congr rfl rfl, rfl, fun n => assemble_congr rfl rfl, fun s => ?_⟩
  exact ⟨_, _, rfl, rfl, jump_one s.state s.inc, rfl, rfl⟩

/-- Settles O11: SEED's outcome shows `INC`, which holds every bit of the sequence but bit 63. -/
theorem sequencesSelectStreamsUpToBit63 : Obligations.SequencesSelectStreamsUpToBit63 :=
  fun a q q' s => (exec_seed_eq_iff a q q' s).trans (incOfSequence_eq_iff q q')

end Sys2Proof.Machine
end

section
/-! SUPPORT. What INIT and SEED leave, and the LCG step seeding makes (R80, R82 to R84, R90). -/

namespace Sys2Proof.Machine

/-- R80: INIT completes with the default generator. -/
theorem exec_init (s : State) :
    exec .init s = .next (respond 0 .completed (loadGenerator DEFAULT_STATE DEFAULT_INC s)) := rfl

/-- R82: SEED completes with the generator its operands select. -/
theorem exec_seed (a q : Word64) (s : State) :
    exec (.seed a q) s =
      .next (respond 0 .completed (loadGenerator (seededState a (incOfSequence q)) (incOfSequence q) s)) := rfl

/-- R95, R96: RANDOM answers the permutation of `STATE`. -/
theorem exec_random (s : State) : exec .random s = .next (respond (perm s.state) .completed (draw s).2) := rfl

/-- A generator loaded and answered: the whole state it leaves. -/
theorem respond_loadGenerator (d : Word32) (e : Status) (x c : Word64) (s : State) :
    respond d e (loadGenerator x c s) =
      { s with state := x, inc := c, rspData := d, rspErr := errBit e, phase := .resp } := rfl

/-- A generator loaded and answered leaves nothing of one loaded and answered before it. -/
theorem respond_loadGenerator_twice (d d' : Word32) (e e' : Status) (x x' c c' : Word64) (s : State) :
    respond d e (loadGenerator x c (respond d' e' (loadGenerator x' c' s))) = respond d e (loadGenerator x c s) := rfl

/-- R80: INIT is idempotent. -/
theorem exec_init_idempotent {s t : State} (h : exec .init s = .next t) : exec .init t = .next t := by
  rw [exec_init] at h
  cases h
  rw [exec_init, respond_loadGenerator_twice]

/-- R82 (e): SEED with the same operands is idempotent. -/
theorem exec_seed_idempotent {a q : Word64} {s t : State} (h : exec (.seed a q) s = .next t) :
    exec (.seed a q) t = .next t := by
  rw [exec_seed] at h
  cases h
  rw [exec_seed, respond_loadGenerator_twice]

/-- R90: the step with the factors in the rule's order. -/
theorem lcgStep_eq_mul_add (s c : Word64) : lcgStep s c = s * 0x5851f42d4c957f2d#64 + c := by
  rw [lcgStep, BitVec.mul_comm, MULT]

/-- R84: one step from 0 gives the increment. -/
theorem lcgStep_zero (c : Word64) : lcgStep 0#64 c = c := by
  rw [lcgStep, BitVec.mul_zero, BitVec.zero_add]

/-- R84: the seeding formula steps from 0, adds `initstate` and steps again. -/
theorem seededState_eq_three_steps (a c : Word64) : seededState a c = lcgStep (lcgStep 0#64 c + a) c := by
  rw [lcgStep_zero, BitVec.add_comm, seededState]

/-- R82 (c): sequence 0 selects the increment 1. -/
theorem incOfSequence_zero : incOfSequence 0 = 1#64 := by decide

/-- Bit 0 of a word is its parity. -/
theorem getLsbD_zero_iff_odd (c : Word64) : c.getLsbD 0 = true ↔ c.toNat % 2 = 1 := by
  rw [BitVec.getLsbD, Nat.testBit_zero, decide_eq_true_eq]

end Sys2Proof.Machine
end

section
/-! PROOFS. The statements about construction and seeding (40_seeding.md). -/

namespace Sys2Proof.Machine

/-- Settles O8: INIT loads and answers constants alone, and the next RANDOM answers the permutation of `DEFAULT_STATE`. -/
theorem initLoadsTheDefaults : Obligations.InitLoadsTheDefaults := by
  intro s
  have hperm : perm DEFAULT_STATE = 0x152ca78d#32 := by decide
  exact ⟨_, _, rfl, exec_init s, exec_init_idempotent (exec_init s), rfl, rfl, exec_random _, hperm⟩

/-- Settles O9: the formula is one LCG step with its factors in the other order; the rest is what SEED loads, which reads
nothing of the old generator and drops bit 63 of the sequence. -/
theorem seedLoadsTheStream : Obligations.SeedLoadsTheStream := by
  constructor
  · intro a q s
    have hseed := exec_seed a q s
    refine ⟨_, ?result, hseed, exec_seed_idempotent hseed, ?bit63, ?zero⟩
    case result =>
      rw [respond_loadGenerator, errBit_completed, seededState, lcgStep_eq_mul_add, incOfSequence]
    case bit63 =>
      rw [(exec_seed_eq_iff a _ q s).mpr (incOfSequence_xor_bit63 q), hseed]
    case zero =>
      rintro rfl
      exact incOfSequence_zero
  · intro s
    have hinc : incOfSequence 54#64 = 0x6d#64 := by decide
    have hstate : seededState 42#64 0x6d#64 = 0x185706b82c2e03f8#64 := by decide
    refine ⟨_, exec_seed _ _ s, hinc, ?_, rfl⟩
    rw [respond_state, loadGenerator_state, hinc, hstate]

/-- Settles O10: bit 0 of `INC` is set, whatever the sequence. -/
theorem seedLeavesIncOdd : Obligations.SeedLeavesIncOdd := by
  intro a q s
  have hodd : (incOfSequence q).getLsbD 0 = true := incOfSequence_odd q
  exact ⟨_, exec_seed a q s, hodd, (getLsbD_zero_iff_odd _).mp hodd⟩

/-- Settles O12: on the new stream a step from 0 is the increment itself. -/
theorem seedIsTheThreeStepProcedure : Obligations.SeedIsTheThreeStepProcedure := by
  intro a q s
  exact ⟨_, exec_seed a q s, seededState_eq_three_steps a _, lcgStep_zero _⟩

end Sys2Proof.Machine
end

section
/-! SUPPORT. The period of the LCG on an odd stream (R91), and sequences that run through all words. -/

namespace Sys2Proof.Machine

open Finset

/-! ### Where the steps lead back -/

/-- With `a` one more than a multiple of 4, a power of two divides the sum of the first `n` powers of `a` exactly where
it divides `n`: lifting the exponent, with the factor `a - 1` of `a ^ n - 1` cancelled. -/
theorem two_pow_dvd_geom_sum_iff {a : ℤ} (h1 : a ≠ 1) (h4 : 4 ∣ a - 1) (k n : ℕ) :
    2 ^ k ∣ ∑ i ∈ range n, a ^ i ↔ (2 : ℤ) ^ k ∣ n := by
  have hodd : ¬ 2 ∣ a := by omega
  have hfinite : emultiplicity 2 (a - 1) ≠ ⊤ :=
    finiteMultiplicity_iff_emultiplicity_ne_top.mp (Int.finiteMultiplicity_iff.mpr ⟨by decide, sub_ne_zero.mpr h1⟩)
  have hlift := Int.two_pow_sub_pow' (y := 1) n h4 hodd
  rw [one_pow, ← geom_sum_mul, emultiplicity_mul Int.prime_two, add_comm] at hlift
  rw [pow_dvd_iff_le_emultiplicity, pow_dvd_iff_le_emultiplicity,
    ENat.add_right_injective_of_ne_top hfinite hlift]

/-- The sum of the first `n` powers of the multiplier vanishes modulo 2^64 exactly where 2^64 divides `n`. -/
theorem geom_sum_MULT_eq_zero_iff (n : ℕ) : ∑ i ∈ range n, MULT ^ i = 0 ↔ 2 ^ 64 ∣ n := by
  have hcast : ∑ i ∈ range n, MULT ^ i = BitVec.ofNat 64 (∑ i ∈ range n, MULT.toNat ^ i) := by
    rw [← BitVec.natCast_eq_ofNat]
    push_cast
    simp
  have hzero : BitVec.ofNat 64 (∑ i ∈ range n, MULT.toNat ^ i) = 0 ↔ 2 ^ 64 ∣ ∑ i ∈ range n, MULT.toNat ^ i := by
    rw [← BitVec.toNat_inj, BitVec.toNat_ofNat]
    exact Nat.dvd_iff_mod_eq_zero.symm
  have hdvd := two_pow_dvd_geom_sum_iff (a := (MULT.toNat : ℤ)) (by decide) (by decide) 64 n
  rw [hcast, hzero]
  exact_mod_cast hdvd

/-- `n` steps in closed form: they add what one step adds, times the sum of the first `n` powers of the multiplier. -/
theorem lcgSteps_eq_add_geom_sum (n : ℕ) (s c : Word64) :
    lcgSteps n s c = s + (∑ i ∈ range n, MULT ^ i) * ((MULT - 1) * s + c) := by
  induction n with
  | zero => simp
  | succ n ih =>
    rw [lcgSteps_last, ih, lcgStep, geom_sum_succ]
    generalize MULT = m
    ring

/-- An odd word is no zero divisor modulo 2^64. -/
theorem mul_eq_zero_iff_of_odd {x w : Word64} (hw : w.toNat % 2 = 1) : x * w = 0 ↔ x = 0 := by
  refine ⟨fun h => ?_, fun h => by rw [h, zero_mul]⟩
  have hdvd : 2 ^ 64 ∣ x.toNat * w.toNat := Nat.dvd_of_mod_eq_zero (by simpa using congrArg BitVec.toNat h)
  have hcop : Nat.Coprime (2 ^ 64) w.toNat := Nat.Coprime.pow_left 64 (Nat.coprime_two_left.mpr (Nat.odd_iff.mpr hw))
  exact BitVec.eq_of_toNat_eq (Nat.eq_zero_of_dvd_of_lt (hcop.dvd_of_dvd_mul_right hdvd) x.isLt)

/-- On an odd stream what one step adds to the state is odd: the multiplier is odd. -/
theorem lcg_increment_odd (s : Word64) {c : Word64} (hc : c.getLsbD 0 = true) :
    ((MULT - 1) * s + c).toNat % 2 = 1 := by
  have hc : c.toNat % 2 = 1 := (getLsbD_zero_iff_odd c).mp hc
  have heven : (MULT - 1).toNat = 2 * 3182068111923396502 := by decide
  rw [BitVec.toNat_add, BitVec.toNat_mul, heven, mul_assoc]
  omega

/-- R91: on an odd stream `n` steps lead back exactly where 2^64 divides `n`. -/
theorem lcgSteps_eq_self_iff {c : Word64} (hc : c.getLsbD 0 = true) (n : ℕ) (s : Word64) :
    lcgSteps n s c = s ↔ 2 ^ 64 ∣ n := by
  rw [lcgSteps_eq_add_geom_sum, add_eq_left, mul_eq_zero_iff_of_odd (lcg_increment_odd s hc),
    geom_sum_MULT_eq_zero_iff]

theorem lcgStep_injective (c : Word64) : Function.Injective fun s => lcgStep s c := by
  intro s t h
  have h : MULT * s = MULT * t := add_right_cancel h
  rw [← sub_eq_zero, ← mul_sub, mul_comm, mul_eq_zero_iff_of_odd (by decide), sub_eq_zero] at h
  exact h

/-! ### Sequences that run through all words -/

theorem card_bitVec (w : ℕ) : Fintype.card (BitVec w) = 2 ^ w := FinEnum.card_eq_fintypeCard.symm

/-- 2^64 different words are all there are. -/
theorem image_eq_univ_of_injOn {f : ℕ → Word64} (hf : Set.InjOn f (range (2 ^ 64))) :
    (range (2 ^ 64)).image f = univ := by
  apply eq_univ_of_card
  rw [card_image_of_injOn hf, card_range, card_bitVec]

theorem exists_lt_of_injOn {f : ℕ → Word64} (hf : Set.InjOn f (range (2 ^ 64))) (t : Word64) :
    ∃ n < 2 ^ 64, f n = t := by
  obtain ⟨n, hn, hnt⟩ := mem_image.mp (image_eq_univ_of_injOn hf ▸ mem_univ t)
  exact ⟨n, mem_range.mp hn, hnt⟩

/-- Such a sequence meets a property as often as there are words that have it. -/
theorem count_eq_card_of_injOn {f : ℕ → Word64} (hf : Set.InjOn f (range (2 ^ 64))) (P : Word64 → Prop)
    [DecidablePred P] : Nat.count (fun n => P (f n)) (2 ^ 64) = #{x | P x} := by
  rw [Nat.count_eq_card_filter_range, ← image_eq_univ_of_injOn hf, filter_image,
    card_image_of_injOn (hf.mono (coe_subset.mpr (filter_subset _ _)))]

theorem ofNat_injOn : Set.InjOn (BitVec.ofNat 64) (range (2 ^ 64)) := by
  intro i hi j hj h
  have hmod := congrArg BitVec.toNat h
  rwa [BitVec.toNat_ofNat, BitVec.toNat_ofNat, Nat.mod_eq_of_lt (mem_range.mp hi),
    Nat.mod_eq_of_lt (mem_range.mp hj)] at hmod

/-- R91: on an odd stream no state comes twice within 2^64 steps. -/
theorem lcgSteps_injOn {c : Word64} (hc : c.getLsbD 0 = true) (s : Word64) :
    Set.InjOn (fun n => lcgSteps n s c) (range (2 ^ 64)) := by
  intro i hi j hj h
  wlog hle : i ≤ j generalizing i j
  · exact (this hj hi h.symm (Nat.le_of_not_le hle)).symm
  · obtain ⟨n, rfl⟩ := Nat.exists_eq_add_of_le hle
    have hback : lcgSteps n (lcgSteps i s c) c = lcgSteps i s c := by
      rw [← lcgSteps_add]
      exact h.symm
    have hn : n < 2 ^ 64 := (Nat.le_add_left n i).trans_lt (mem_range.mp hj)
    rw [Nat.eq_zero_of_dvd_of_lt ((lcgSteps_eq_self_iff hc n _).mp hback) hn, Nat.add_zero]

end Sys2Proof.Machine
end

section
/-! SUPPORT. The output permutation: which states have an output, and what it sees of a state (R92 to R94). -/

namespace Sys2Proof.Machine

open Finset

/-- R92: `rot` lies in 0 .. 31. -/
theorem rotation_toNat_lt (old : Word64) : (rotation old).toNat < 32 :=
  permStage1_rot_toNat old ▸ (permStage1 old).rot.isLt

/-- R92: the output is `xs` rotated right by `old[63:59]`. -/
theorem perm_eq_rotateRight (old : Word64) :
    perm old = (xorShifted old).rotateRight (old.extractLsb' 59 5).toNat := by
  rw [← permStage1_xs, ← permStage2_permStage1]
  rfl

/-- R92: each bit of `xs` is a bit of the state and the one 18 places above it. -/
theorem getLsbD_xorShifted (old : Word64) {i : ℕ} (hi : i < 32) :
    (xorShifted old).getLsbD i = (old.getLsbD (27 + i) ^^ old.getLsbD (27 + i + 18)) := by
  simp [xorShifted, trunc32, XS_SHIFT1, XS_SHIFT2, hi, Bool.xor_comm, Nat.add_comm 18]

theorem rotateRight_zero (xs : Word32) : xs.rotateRight 0 = xs := by
  apply BitVec.eq_of_getLsbD_eq
  intro i hi
  simp [hi]

/-- A rotation to the left undoes the one to the right. -/
theorem rotateLeft_rotateRight {w r : ℕ} (hr : r < w) (x : BitVec w) : (x.rotateRight r).rotateLeft r = x := by
  apply BitVec.eq_of_getLsbD_eq
  intro i hi
  rw [BitVec.getLsbD_rotateLeft_of_le hr, BitVec.getLsbD_rotateRight_of_lt hr, BitVec.getLsbD_rotateRight_of_lt hr]
  by_cases hlow : i < r
  · simp [hlow, hi, show ¬ w - r + i < w - r by omega, show w - r + i < w by omega]
  · simp [hlow, hi, show i - r < w - r by omega, show r + (i - r) = i by omega]

/-- R93 (d): the output is a function of the bits from 27 up. -/
theorem perm_eq_of_shiftRight_eq {old old' : Word64} (h : old >>> 27 = old' >>> 27) : perm old = perm old' := by
  have hbit (i : ℕ) : old.getLsbD (27 + i) = old'.getLsbD (27 + i) := by
    simpa using congrArg (BitVec.getLsbD · i) h
  have hxs : xorShifted old = xorShifted old' := by
    apply BitVec.eq_of_getLsbD_eq
    intro i hi
    rw [getLsbD_xorShifted _ hi, getLsbD_xorShifted _ hi, hbit i, Nat.add_assoc, hbit (i + 18)]
  have hrot : old.extractLsb' 59 5 = old'.extractLsb' 59 5 := by
    apply BitVec.eq_of_getLsbD_eq
    intro i hi
    simpa [hi, ← Nat.add_assoc] using hbit (32 + i)
  rw [perm_eq_rotateRight, perm_eq_rotateRight, hxs, hrot]

/-! ### One state for each output, rotation and low bits -/

/-- Equal outputs with equal rotations come from equal `xs`. -/
theorem xorShifted_eq_of_perm_eq {old old' : Word64} (hperm : perm old = perm old')
    (hrot : old.extractLsb' 59 5 = old'.extractLsb' 59 5) : xorShifted old = xorShifted old' := by
  have hlt : (old'.extractLsb' 59 5).toNat < 32 := (old'.extractLsb' 59 5).isLt
  rw [perm_eq_rotateRight, perm_eq_rotateRight, hrot] at hperm
  rw [← rotateLeft_rotateRight hlt (xorShifted old), hperm, rotateLeft_rotateRight hlt]

/-- Words with equal fields agree on the bits of the field. -/
theorem getLsbD_eq_of_extractLsb'_eq {w start len i : ℕ} {x x' : BitVec w}
    (h : x.extractLsb' start len = x'.extractLsb' start len) (hi : start ≤ i) (hlt : i < start + len) :
    x.getLsbD i = x'.getLsbD i := by
  obtain ⟨j, rfl⟩ := Nat.exists_eq_add_of_le hi
  simpa [show j < len by omega] using congrArg (BitVec.getLsbD · j) h

/-- With equal `xs`, two states that agree from bit 59 up, and from 18 places above bit `n`, agree from bit `n` up:
their bits below 59 can be read off `xs`. -/
theorem getLsbD_eq_of_xorShifted_eq {old old' : Word64} {n : ℕ} (hxs : xorShifted old = xorShifted old') (hn : 27 ≤ n)
    (h59 : ∀ i, 59 ≤ i → old.getLsbD i = old'.getLsbD i)
    (habove : ∀ i, n + 18 ≤ i → old.getLsbD i = old'.getLsbD i) :
    ∀ i, n ≤ i → old.getLsbD i = old'.getLsbD i := by
  intro i hi
  by_cases hlt : i < 59
  · obtain ⟨j, rfl⟩ := Nat.exists_eq_add_of_le (hn.trans hi)
    have hbit := congrArg (BitVec.getLsbD · j) hxs
    simp only [getLsbD_xorShifted _ (show j < 32 by omega), habove _ (Nat.add_le_add_right hi 18)] at hbit
    exact Bool.xor_left_inj.mp hbit
  · exact h59 i (Nat.le_of_not_lt hlt)

/-- R94: the output of a state, its rotation and its low 27 bits. -/
def permFields (old : Word64) : Word32 × BitVec 5 × BitVec 27 :=
  (perm old, old.extractLsb' 59 5, old.extractLsb' 0 27)

/-- R94: the rotation gives the bits from 59 up, from them `xs` gives those from 41 up, from them those from 27 up, and
the low bits give the others. -/
theorem permFields_injective : Function.Injective permFields := by
  intro old old' h
  simp only [permFields, Prod.mk.injEq] at h
  obtain ⟨hperm, hrot, hlow⟩ := h
  have hxs := xorShifted_eq_of_perm_eq hperm hrot
  have h59 (i : ℕ) (hi : 59 ≤ i) : old.getLsbD i = old'.getLsbD i := by
    by_cases hlt : i < 64
    · exact getLsbD_eq_of_extractLsb'_eq hrot hi hlt
    · rw [BitVec.getLsbD_of_ge _ _ (Nat.le_of_not_lt hlt), BitVec.getLsbD_of_ge _ _ (Nat.le_of_not_lt hlt)]
  have h41 := getLsbD_eq_of_xorShifted_eq (n := 41) hxs (by decide) h59 h59
  have h27 := getLsbD_eq_of_xorShifted_eq (n := 27) hxs (by decide) h59 fun i hi => h41 i (by omega)
  apply BitVec.eq_of_getLsbD_eq
  intro i _
  by_cases hlt : i < 27
  · exact getLsbD_eq_of_extractLsb'_eq hlow (Nat.zero_le i) (by omega)
  · exact h27 i (Nat.le_of_not_lt hlt)

/-- R94: there are as many outputs, rotations and low bits as states. -/
theorem permFields_bijective : Function.Bijective permFields := by
  refine (Fintype.bijective_iff_injective_and_card _).mpr ⟨permFields_injective, ?_⟩
  simp only [Fintype.card_prod, card_bitVec, ← pow_add]

theorem existsUnique_state_of_fields (y : Word32) (rot : BitVec 5) (low : BitVec 27) :
    ∃! old : Word64, perm old = y ∧ old.extractLsb' 59 5 = rot ∧ old.extractLsb' 0 27 = low := by
  simpa only [permFields, Prod.mk.injEq] using permFields_bijective.existsUnique (y, rot, low)

/-- R94: the states of an output are told apart by rotation and low bits. -/
theorem card_states_of_output (y : Word32) : #{old | perm old = y} = 2 ^ 32 := by
  have hcard : #(univ : Finset (BitVec 5 × BitVec 27)) = 2 ^ 32 := by
    rw [card_univ, Fintype.card_prod, card_bitVec, card_bitVec, ← pow_add]
  rw [← hcard]
  refine card_nbij (fun old => (permFields old).2) (by simp [Set.MapsTo]) ?inj ?surj
  case inj =>
    intro old hold old' hold' h
    have hperm : perm old = perm old' := (mem_filter.mp hold).2.trans (mem_filter.mp hold').2.symm
    exact permFields_injective (Prod.ext hperm h)
  case surj =>
    rintro ⟨rot, low⟩ -
    obtain ⟨old, ⟨hperm, hrot, hlow⟩, -⟩ := existsUnique_state_of_fields y rot low
    exact ⟨old, mem_filter.mpr ⟨mem_univ old, hperm⟩, Prod.ext hrot hlow⟩

end Sys2Proof.Machine
end

section
/-! SUPPORT. On an odd stream every command completes (R122), and what commands answer depends on the generator alone
(R32, R97). -/

namespace Sys2Proof.Machine

/-! ### Completion -/

/-- R91, R94: within 2^64 draws an odd stream gives every output. -/
theorem exists_nthDraw_eq {c : Word64} (hc : c.getLsbD 0 = true) (s : Word64) (y : Word32) :
    ∃ k < 2 ^ 64, nthDraw k s c = y := by
  obtain ⟨old, ⟨hperm, -, -⟩, -⟩ := existsUnique_state_of_fields y 0 0
  obtain ⟨k, hk, rfl⟩ := exists_lt_of_injOn (lcgSteps_injOn hc s) old
  exact ⟨k, hk, hperm⟩

/-- R116: the low half of the exact product is the product modulo 2^32. -/
theorem productLow_eq_mul (b r : Word32) : productLow b r = r * b := by
  rw [productLow, lowHalf, ← BitVec.setWidth_eq_extractLsb' (by decide), mul32x32, BitVec.setWidth_mul _ _ (by decide),
    zext64, zext64, BitVec.setWidth_setWidth_of_le _ (by decide), BitVec.setWidth_setWidth_of_le _ (by decide),
    BitVec.setWidth_eq, BitVec.setWidth_eq]

/-- R122: BOUNDED accepts the largest draw, whatever the bound. -/
theorem boundedAccepts_neg_one (b : Word32) : boundedAccepts (thresh32 b) (-1) = true :=
  decide_eq_true (Nat.le_pred_of_lt (thresh32 b).isLt)

/-- R122: and so does FAST_BOUNDED: its product's low half is `-b`, whose remainder by `b` is the threshold. -/
theorem not_productLow_neg_one_lt (b : Word32) : ¬ productLow b (-1) < thresh32 b := by
  rw [productLow_eq_mul, neg_one_mul, BitVec.not_lt, BitVec.le_def, thresh32, BitVec.toNat_umod]
  exact Nat.mod_le _ _

theorem finishSampling_completes {f : Word32 → Word32} {o : Option (Word32 × State)} (h : o ≠ none) :
    ∃ t, finishSampling f o = .next t := by
  obtain ⟨p, rfl⟩ := Option.ne_none_iff_exists'.mp h
  exact ⟨_, rfl⟩

/-- R122: on an odd stream every instruction completes: a bounded command's loop meets the largest draw. -/
theorem exec_completes (i : Instr) {s : State} (h : incOdd s) : ∃ t, exec i s = .next t := by
  obtain ⟨k, hk, hlargest⟩ := exists_nthDraw_eq h s.state (-1)
  cases i with
  | init | seed | random | advance | retreat | reserved => exact ⟨_, rfl⟩
  | bounded b =>
    simp only [exec, execBounded]
    split
    · exact ⟨_, rfl⟩
    · refine finishSampling_completes fun hnone => ?_
      have hrejected := drawUntil_none.mp hnone k hk
      rw [hlargest, boundedAccepts_neg_one] at hrejected
      cases hrejected
  | fastBounded b =>
    simp only [exec, execFastBounded]
    split
    · exact ⟨_, rfl⟩
    · refine finishSampling_completes fun hnone => ?_
      have hrejected := fastDraws_none hnone k hk
      rw [hlargest] at hrejected
      exact not_productLow_neg_one_lt b hrejected

/-! ### The same answers -/

/-- R97: instruction `i` completes on both states, with the same response, and leaves the same generator, on an odd
stream. -/
structure AnswersAlike (i : Instr) (s s' u u' : State) : Prop where
  left : exec i s = .next u
  right : exec i s' = .next u'
  response : heldResponse u' = heldResponse u
  state : u'.state = u.state
  inc : u'.inc = u.inc
  odd : incOdd u

/-- R97: SEED reads nothing of the state before it. -/
theorem seed_answersAlike (a q : Word64) (s s' : State) : ∃ u u', AnswersAlike (.seed a q) s s' u u' :=
  ⟨_, _, exec_seed a q s, exec_seed a q s', rfl, rfl, rfl, incOfSequence_odd q⟩

/-- R32, R122: and no instruction reads more of it than the generator. -/
theorem answersAlike_of_same_generator (i : Instr) {s s' : State} (hodd : incOdd s) (hstate : s'.state = s.state)
    (hinc : s'.inc = s.inc) : ∃ u u', AnswersAlike i s s' u u' := by
  obtain ⟨u, hu⟩ := exec_completes i hodd
  have hu' : exec i s' = .next (transport s' u) := by
    rw [exec_transport i s s' hstate hinc, hu]
    rfl
  exact ⟨u, transport s' u, hu, hu', rfl, rfl, rfl, exec_incOdd hu hodd⟩

/-- R97: the commands of a list all complete on both states, with the same responses, one a command, and leave the same
generator. -/
def ServedAlike (cs : List Instr) (s s' : State) : Prop :=
  ∃ (t t' : State) (rs : List Response),
    serveAll cs s = .next t ∧ serveAll cs s' = .next t' ∧
    t.taken = s.taken ++ rs ∧ t'.taken = s'.taken ++ rs ∧ rs.length = cs.length ∧
    t.state = t'.state ∧ t.inc = t'.inc

/-- An instruction's response comes after those taken before it. -/
theorem takeResponse_taken_of_exec {i : Instr} {s u : State} (h : exec i s = .next u) :
    (takeResponse u).taken = s.taken ++ [heldResponse u] := by
  rw [takeResponse_taken, exec_next h]

theorem servedAlike_cons {i : Instr} {cs : List Instr} {s s' u u' : State} (h : AnswersAlike i s s' u u')
    (hrest : ServedAlike cs (takeResponse u) (takeResponse u')) : ServedAlike (i :: cs) s s' := by
  obtain ⟨t, t', rs, hrun, hrun', htaken, htaken', hlength, hgenerator⟩ := hrest
  refine ⟨t, t', heldResponse u :: rs, ?_, ?_, ?_, ?_, congrArg (· + 1) hlength, hgenerator⟩
  · rw [serveAll_cons_of_exec cs h.left, hrun]
  · rw [serveAll_cons_of_exec cs h.right, hrun']
  · rw [htaken, takeResponse_taken_of_exec h.left, List.append_assoc, List.singleton_append]
  · rw [htaken', takeResponse_taken_of_exec h.right, h.response, List.append_assoc, List.singleton_append]

/-- R97: so it is with any commands on two states with the same odd generator. -/
theorem servedAlike_of_same_generator (cs : List Instr) {s s' : State} (hodd : incOdd s) (hstate : s'.state = s.state)
    (hinc : s'.inc = s.inc) : ServedAlike cs s s' := by
  induction cs generalizing s s' with
  | nil => exact ⟨s, s', [], rfl, rfl, by simp, by simp, rfl, hstate.symm, hinc.symm⟩
  | cons i cs ih =>
    obtain ⟨u, u', h⟩ := answersAlike_of_same_generator i hodd hstate hinc
    exact servedAlike_cons h (ih h.odd h.state h.inc)

end Sys2Proof.Machine
end

section
/-! SUPPORT. Register stages only delay the permutation pipeline (R98). -/

namespace Sys2Proof.Machine

/-- A chain of registers gives what it holds, oldest first, and then what entered. -/
theorem runStages_eq_take {α : Type} (xs regs : List α) :
    runStages xs regs = (regs.reverse ++ xs).take xs.length := by
  induction xs generalizing regs with
  | nil => simp [runStages]
  | cons x xs ih =>
    have hedge : (shiftStages x regs).1 :: (shiftStages x regs).2.reverse = regs.reverse ++ [x] := by
      simpa using congrArg List.reverse (shiftStages_append x regs)
    rw [runStages, ih, List.append_cons, ← hedge]
    rfl

@[simp] theorem runStages_length {α : Type} (xs regs : List α) : (runStages xs regs).length = xs.length := by
  simp [runStages_eq_take]

/-- So after as many values as there are registers, what entered leaves in order. -/
theorem runStages_drop {α : Type} (xs regs : List α) :
    (runStages xs regs).drop regs.length = xs.take (xs.length - regs.length) := by
  rw [runStages_eq_take, List.drop_take, List.drop_left' List.length_reverse]

/-- R98: registers between the two stages delay the outputs. -/
theorem permStages_drop (regs : List PermStage) (olds : List Word64) :
    ((runStages (olds.map permStage1) regs).drop regs.length).map permStage2 =
      (olds.take (olds.length - regs.length)).map perm := by
  have hperm : permStage2 ∘ permStage1 = perm := funext permStage2_permStage1
  rw [runStages_drop, ← List.map_take, List.map_map, hperm, List.length_map]

/-- The step's pipeline is two chains of registers, with stage 2 between them. -/
theorem runPipe_eq_runStages (olds : List Word64) (p : PermPipe) :
    runPipe olds p = runStages ((runStages (olds.map permStage1) p.between).map permStage2) p.after := by
  induction olds generalizing p with
  | nil => rfl
  | cons old olds ih =>
    rw [runPipe, ih]
    rfl

/-- R98: the registers after the second stage delay the outputs further. -/
theorem runPipe_drop (p : PermPipe) (olds : List Word64) :
    (runPipe olds p).drop p.stages = (olds.take (olds.length - p.stages)).map perm := by
  rw [runPipe_eq_runStages, PermPipe.stages, Nat.add_comm, ← List.drop_drop, runStages_drop, List.drop_take,
    ← List.map_drop, permStages_drop, ← List.map_take, List.take_take]
  simp only [List.length_map, runStages_length]
  congr 2
  omega

end Sys2Proof.Machine
end

section
/-! PROOFS. The statements about the LCG, the permutation, RANDOM and the pipeline (41_raw_output.md). -/

namespace Sys2Proof.Machine

/-- Settles O16: on an odd stream `n` steps lead back exactly where 2^64 divides `n`, so the first 2^64 states of a
stream differ, and they are all there are. -/
theorem lcgHasFullPeriod : Obligations.LcgHasFullPeriod := by
  intro c hc
  refine ⟨Finite.injective_iff_bijective.mp (lcgStep_injective c), fun s => ?returns, fun s n hpos hlt h => ?notBefore,
    fun s t => ?reached⟩
  case returns => exact (lcgSteps_eq_self_iff hc _ s).mpr dvd_rfl
  case notBefore => exact hpos.ne' (Nat.eq_zero_of_dvd_of_lt ((lcgSteps_eq_self_iff hc n s).mp h) hlt)
  case reached => exact exists_lt_of_injOn (lcgSteps_injOn hc s) t

/-- Settles O17: output, rotation and low bits tell all states apart, and a full period runs through all states. -/
theorem outputsAreEquidistributed : Obligations.OutputsAreEquidistributed := by
  refine ⟨existsUnique_state_of_fields, fun y => ?_, fun y s c hc => ?_⟩
  · exact (count_eq_card_of_injOn ofNat_injOn (perm · = y)).trans (card_states_of_output y)
  · exact (count_eq_card_of_injOn (lcgSteps_injOn hc s) (perm · = y)).trans (card_states_of_output y)

/-- Settles O19, by induction on the commands: SEED leaves the same odd generator, from which every command completes
and answers alike. -/
theorem seedDeterminesTheStream : Obligations.SeedDeterminesTheStream := by
  intro a q cs s s'
  obtain ⟨u, u', h⟩ := seed_answersAlike a q s s'
  exact servedAlike_cons h (servedAlike_of_same_generator cs h.odd h.state h.inc)

/-- Settles O14: `perm` is what the two stages of the pipeline compute, and the rule's masked formula by definition. -/
theorem permIsRotateRight : Obligations.PermIsRotateRight := by
  intro old
  refine ⟨(permStage2_permStage1 old).symm, ?_⟩
  rintro xs rot hxs hrot
  obtain rfl : xs = xorShifted old := hxs.trans (BitVec.setWidth_eq_extractLsb' (by decide))
  obtain rfl : rot = rotation old := hrot.trans (BitVec.setWidth_eq_extractLsb' (by decide))
  exact ⟨rfl, rotation_toNat_lt old⟩

/-- Settles O15: the corner cases are those of the rotation; `xs` and `rot` see the bits from 27 up. -/
theorem permCornerCases : Obligations.PermCornerCases := by
  refine ⟨fun old hrot => ?rot0, fun old hrot => ?rot31, by decide, fun _ _ => perm_eq_of_shiftRight_eq, by decide⟩
  case rot0 =>
    rw [perm_eq_rotateRight, hrot]
    exact rotateRight_zero _
  case rot31 =>
    rw [perm_eq_rotateRight, hrot]
    rfl

/-- Settles O56: the two stages compute `perm`, and each register delays it by one value. -/
theorem pipelineComputesPerm : Obligations.PipelineComputesPerm :=
  ⟨permStage2_permStage1, permStages_drop, runPipe_drop⟩

/-- Settles O13: product and sum of words wrap modulo 2^64. -/
theorem lcgStepWraps : Obligations.LcgStepWraps := by
  refine ⟨fun s c => ?_, by decide, by decide, by decide, by decide⟩
  rw [lcgStep_eq_mul_add, BitVec.toNat_add, BitVec.toNat_mul, Nat.mod_add_mod]
  rfl

/-- Settles O18: RANDOM answers the permutation of the old `STATE` and steps it once. -/
theorem randomAnswersOneDraw : Obligations.RandomAnswersOneDraw := by
  refine ⟨fun s => rfl, fun s => ?result, fun s hs => ⟨_, exec_random s, ?_, ?_⟩,
    fun s hs hc => ⟨_, exec_random s, ?_, ?_⟩⟩
  case result =>
    rw [exec_random, ← lcgStep_eq_mul_add]
    rfl
  · rw [respond_rspData, hs]; decide
  · rw [respond_state, draw_snd_state, hs]; exact lcgStep_zero _
  · rw [respond_rspData, hs]; decide
  · rw [respond_state, draw_snd_state, hs, hc]; decide

end Sys2Proof.Machine
end

section
/-! SUPPORT. A jump is the step applied as often as its count says, and counts are known modulo the period (R91, R132). -/

namespace Sys2Proof.Machine

/-- R130: the affine map of the unit's current power. -/
def JumpRegs.curStep (u : JumpRegs) (x : Word64) : Word64 := u.curMult * x + u.curPlus

/-- R131: squaring makes it the map applied twice. -/
theorem iterate_curStep (u : JumpRegs) : u.iterate.curStep = u.curStep^[2] := by
  funext x
  rw [JumpRegs.curStep, iterate_curMult, iterate_curPlus, show 1#64 = (1 : Word64) from rfl]
  simp only [JumpRegs.curStep, Function.iterate_succ, Function.iterate_zero, Function.comp_apply, id_eq]
  ring

theorem iterate_apply (u : JumpRegs) (s : Word64) :
    u.iterate.apply s = if u.deltaRem.getLsbD 0 then u.curStep (u.apply s) else u.apply s := by
  obtain ⟨hmult, hplus⟩ := iterate_acc u
  rw [JumpRegs.apply, hmult, hplus]
  split
  · simp only [JumpRegs.curStep, JumpRegs.apply]
    ring
  · rfl

/-- R131: the loop composes the current power onto the accumulated transform as often as the remaining count says, by
its binary digits. -/
theorem run_apply {n : ℕ} {u : JumpRegs} (h : u.deltaRem.toNat < 2 ^ n) (s : Word64) :
    (JumpRegs.run n u).apply s = u.curStep^[u.deltaRem.toNat] (u.apply s) := by
  induction n generalizing u with
  | zero => simp [JumpRegs.run, show u.deltaRem.toNat = 0 by omega]
  | succ n ih =>
    by_cases hdone : u.deltaRem = 0#64
    · simp [run_of_done hdone, hdone]
    · have hhalf : u.iterate.deltaRem.toNat = u.deltaRem.toNat / 2 := by
        rw [iterate_deltaRem, BitVec.toNat_ushiftRight, Nat.shiftRight_one]
      rw [run_succ_of_count hdone, ih (by omega), hhalf, iterate_curStep, ← Function.iterate_mul, iterate_apply]
      simp only [getLsbD_zero_iff_odd]
      split
      · rw [← Function.iterate_succ_apply, show (2 * (u.deltaRem.toNat / 2)).succ = u.deltaRem.toNat by omega]
      · rw [show 2 * (u.deltaRem.toNat / 2) = u.deltaRem.toNat by omega]

theorem lcgSteps_eq_iterate (n : ℕ) (s c : Word64) : lcgSteps n s c = (lcgStep · c)^[n] s := by
  induction n generalizing s with
  | zero => rfl
  | succ n ih => rw [lcgSteps_succ, ih, Function.iterate_succ_apply]

/-- R132: a jump is the step applied as often as its count says. -/
theorem jump_eq_lcgSteps (s c d : Word64) : jump s c d = lcgSteps d.toNat s c := by
  have hload : (JumpRegs.load c d).apply s = s := by simp [JumpRegs.apply]
  rw [jump, run_apply d.isLt, hload, lcgSteps_eq_iterate]
  rfl

/-- R91: on every stream, odd or not, a multiple of 2^64 steps leads back. -/
theorem lcgSteps_of_dvd {n : ℕ} (h : 2 ^ 64 ∣ n) (s c : Word64) : lcgSteps n s c = s := by
  rw [lcgSteps_eq_add_geom_sum, (geom_sum_MULT_eq_zero_iff n).mpr h, zero_mul, add_zero]

/-- R121: so the jump by a count goes where that many steps go, at 2^64 and beyond too. -/
theorem jump_ofNat (n : ℕ) (s c : Word64) : jump s c (BitVec.ofNat 64 n) = lcgSteps n s c := by
  conv_rhs => rw [← Nat.div_add_mod n (2 ^ 64), lcgSteps_add, lcgSteps_of_dvd (Nat.dvd_mul_right _ _)]
  rw [jump_eq_lcgSteps, BitVec.toNat_ofNat]

end Sys2Proof.Machine
end

section
/-! SUPPORT. The threshold and the product of a draw and a bound, as numbers (R110, R112, R116). -/

namespace Sys2Proof.Machine

theorem toNat_pos_of_ne_zero {b : Word32} (hb : b ≠ 0) : 0 < b.toNat :=
  Nat.pos_of_ne_zero fun h => hb (BitVec.eq_of_toNat_eq h)

/-- R110: the negation of a nonzero bound is `2^32 - b`. -/
theorem thresh32_toNat_eq_sub_mod {b : Word32} (hb : b ≠ 0) : (thresh32 b).toNat = (2 ^ 32 - b.toNat) % b.toNat := by
  have hlt : 2 ^ 32 - b.toNat < 2 ^ 32 := Nat.sub_lt (by decide) (toNat_pos_of_ne_zero hb)
  rw [thresh32, BitVec.toNat_umod, BitVec.toNat_neg, Nat.mod_eq_of_lt hlt]

/-- R110: a multiple of the bound makes no difference to the remainder. -/
theorem thresh32_toNat {b : Word32} (hb : b ≠ 0) : (thresh32 b).toNat = 2 ^ 32 % b.toNat := by
  rw [thresh32_toNat_eq_sub_mod hb, ← Nat.mod_eq_sub_mod b.isLt.le]

theorem lt_thresh32_iff {b : Word32} (hb : b ≠ 0) (r : Word32) : r < thresh32 b ↔ r.toNat < 2 ^ 32 % b.toNat := by
  rw [BitVec.lt_def, thresh32_toNat hb]

theorem twoPow32_toNat {k : ℕ} (hk : k ≤ 31) : (1#32 <<< k).toNat = 2 ^ k := by
  have hlt : 2 ^ k < 2 ^ 32 := Nat.pow_lt_pow_right (by decide) (by omega)
  rw [BitVec.toNat_shiftLeft, Nat.shiftLeft_eq, BitVec.toNat_ofNat, Nat.one_mod, one_mul, Nat.mod_eq_of_lt hlt]

theorem twoPow32_ne_zero {k : ℕ} (hk : k ≤ 31) : 1#32 <<< k ≠ 0 := by
  intro h
  have hzero := congrArg BitVec.toNat h
  rw [twoPow32_toNat hk] at hzero
  exact (Nat.two_pow_pos k).ne' hzero

/-- R110: the threshold of a power of two is 0. -/
theorem thresh32_twoPow {k : ℕ} (hk : k ≤ 31) : thresh32 (1#32 <<< k) = 0 := by
  apply BitVec.eq_of_toNat_eq
  rw [thresh32_toNat (twoPow32_ne_zero hk), twoPow32_toNat hk]
  exact Nat.mod_eq_zero_of_dvd (Nat.pow_dvd_pow 2 (by omega))

/-- R10: the product of two 32-bit values never wraps. -/
theorem mul32x32_toNat (a b : Word32) : (mul32x32 a b).toNat = a.toNat * b.toNat := by
  have hlt : a.toNat * b.toNat < 2 ^ 32 * 2 ^ 32 := Nat.mul_lt_mul'' a.isLt b.isLt
  rw [mul32x32, zext64, zext64, BitVec.toNat_mul, BitVec.toNat_setWidth_of_le (by decide),
    BitVec.toNat_setWidth_of_le (by decide)]
  exact Nat.mod_eq_of_lt hlt

theorem productLow_toNat (b r : Word32) : (productLow b r).toNat = r.toNat * b.toNat % 2 ^ 32 := by
  rw [productLow_eq_mul, BitVec.toNat_mul]

theorem productHigh_eq_ofNat (b r : Word32) : productHigh b r = BitVec.ofNat 32 (r.toNat * b.toNat / 2 ^ 32) := by
  rw [productHigh, highHalf, BitVec.extractLsb', mul32x32_toNat, Nat.shiftRight_eq_div_pow]

theorem productHigh_toNat (b r : Word32) : (productHigh b r).toNat = r.toNat * b.toNat / 2 ^ 32 := by
  have hlt : r.toNat * b.toNat / 2 ^ 32 < 2 ^ 32 :=
    Nat.div_lt_of_lt_mul (Nat.mul_lt_mul'' r.isLt b.isLt)
  rw [productHigh_eq_ofNat, BitVec.toNat_ofNat, Nat.mod_eq_of_lt hlt]

/-- R120: the high half lies below the bound, since a draw lies below 2^32. -/
theorem productHigh_toNat_lt {b : Word32} (hb : b ≠ 0) (r : Word32) : (productHigh b r).toNat < b.toNat := by
  rw [productHigh_toNat]
  exact Nat.div_lt_of_lt_mul (Nat.mul_lt_mul_of_pos_right r.isLt (toNat_pos_of_ne_zero hb))

/-- R116 (c): by a power of two the high half is the draw's high bits. -/
theorem productHigh_twoPow {k : ℕ} (hk : k ≤ 31) (r : Word32) : productHigh (1#32 <<< k) r = r >>> (32 - k) := by
  have hpow : 2 ^ 32 = 2 ^ (32 - k) * 2 ^ k := by rw [← pow_add, Nat.sub_add_cancel (by omega)]
  apply BitVec.eq_of_toNat_eq
  rw [productHigh_toNat, twoPow32_toNat hk, hpow, Nat.mul_div_mul_right _ _ (Nat.two_pow_pos k),
    BitVec.toNat_ushiftRight, Nat.shiftRight_eq_div_pow]

/-- R112 (c): by a power of two the remainder is the draw's low bits. -/
theorem umod_twoPow {k : ℕ} (hk : k ≤ 31) (r : Word32) : r % (1#32 <<< k) = r &&& ((1#32 <<< k) - 1#32) := by
  have hpred : ((1#32 <<< k) - 1#32).toNat = 2 ^ k - 1 := by
    rw [BitVec.toNat_sub_of_le, twoPow32_toNat hk]
    · rfl
    · rw [BitVec.le_def, twoPow32_toNat hk]
      exact Nat.two_pow_pos k
  apply BitVec.eq_of_toNat_eq
  rw [BitVec.toNat_umod, BitVec.toNat_and, hpred, twoPow32_toNat hk, Nat.and_two_pow_sub_one_eq_mod]

end Sys2Proof.Machine
end

section
/-! SUPPORT. The bounded commands' draws: none for a zero bound, and the rejection loop of both, in the rules and in the
unit (R111, R112, R115, R116, R123). -/

namespace Sys2Proof.Machine

theorem exec_bounded_zero (s : State) : exec (.bounded 0) s = .next (respond 0 .completed s) := by
  rw [exec, execBounded, if_pos rfl]

theorem exec_fastBounded_zero (s : State) : exec (.fastBounded 0) s = .next (respond 0 .completed s) := by
  rw [exec, execFastBounded, if_pos rfl]

/-- R116: FAST_BOUNDED accepts a draw whose product's low half is not below the threshold. -/
def fastAccepts (bound r : Word32) : Bool := !decide (productLow bound r < thresh32 bound)

theorem fastAccepts_iff (b r : Word32) : fastAccepts b r = true ↔ ¬ productLow b r < thresh32 b := by
  simp [fastAccepts]

theorem drawUntil_succ (accept : Word32 → Bool) (fuel : ℕ) (s : State) :
    drawUntil accept (fuel + 1) s = if accept (draw s).1 then some (draw s) else drawUntil accept fuel (draw s).2 := rfl

/-- R115: the first draw's tests make no difference: FAST_BOUNDED is the rejection loop from its first draw on. -/
theorem fastDraws_eq_drawUntil {b : Word32} (hb : b ≠ 0) (s : State) :
    fastDraws b s = drawUntil (fastAccepts b) maxDraws s := by
  have hmax : maxDraws = (maxDraws - 1) + 1 := by decide
  rw [hmax, drawUntil_succ, fastDraws]
  by_cases hrej : productLow b (draw s).1 < thresh32 b
  · have hbelow : productLow b (draw s).1 < b := BitVec.lt_trans hrej (thresh32_lt hb)
    rw [if_pos hbelow, if_pos hrej, if_neg fun hacc => (fastAccepts_iff b _).mp hacc hrej]
    rfl
  · rw [if_pos ((fastAccepts_iff b _).mpr hrej), if_neg hrej, ite_self]

theorem exec_bounded_of_ne_zero {b : Word32} (hb : b ≠ 0) (s : State) :
    exec (.bounded b) s = finishSampling (· % b) (drawUntil (boundedAccepts (thresh32 b)) maxDraws s) := if_neg hb

theorem exec_fastBounded_of_ne_zero {b : Word32} (hb : b ≠ 0) (s : State) :
    exec (.fastBounded b) s = finishSampling (productHigh b) (drawUntil (fastAccepts b) maxDraws s) := by
  rw [← fastDraws_eq_drawUntil hb]
  exact if_neg hb

/-- An accepted first draw ends the loop. -/
theorem drawUntil_of_accepts {accept : Word32 → Bool} {s : State} (h : accept (perm s.state) = true) :
    drawUntil accept maxDraws s = some (draw s) := by
  have hmax : maxDraws = (maxDraws - 1) + 1 := by decide
  rw [hmax, drawUntil_succ, if_pos (by exact h)]

/-- R123: a unit whose iterations, from registers that satisfy `Ready`, keep `Ready` and answer `result r` to exactly the
draws `r` that `accept` takes runs the rejection loop. -/
theorem runSampler_eq_drawUntil {iteration : SamplerRegs → Word32 → SamplerStep} {accept : Word32 → Bool}
    {result : Word32 → Word32} {Ready : SamplerRegs → Prop}
    (hresponse : ∀ u r, Ready u → (iteration u r).response = if accept r then some (result r) else none)
    (hkeep : ∀ u r, Ready u → Ready (iteration u r).regs) (fuel : ℕ) {u : SamplerRegs} (hu : Ready u) (s : State) :
    runSampler iteration fuel u s = (drawUntil accept fuel s).map (Prod.map result id) := by
  induction fuel generalizing u s with
  | zero => rfl
  | succ fuel ih =>
    rw [runSampler, drawUntil_succ, hresponse u _ hu]
    by_cases hacc : accept (draw s).1 = true
    · rw [if_pos hacc, if_pos hacc]
      rfl
    · rw [if_neg hacc, if_neg hacc]
      exact ih (hkeep u _ hu) _

theorem finishSampling_map (f : Word32 → Word32) (o : Option (Word32 × State)) :
    finishSampling id (o.map (Prod.map f id)) = finishSampling f o := by
  cases o <;> rfl

/-- R123: the unit of BOUNDED, with `BND` and `THR` latched. -/
theorem referenceBounded_eq_drawUntil (u : SamplerRegs) (b : Word32) (s : State) :
    referenceBounded u b s = (drawUntil (boundedAccepts (thresh32 b)) maxDraws s).map (Prod.map (· % b) id) := by
  refine runSampler_eq_drawUntil (Ready := fun v => v.bnd = b ∧ v.thr = thresh32 b) ?_ (fun v r hv => hv) maxDraws
    ⟨rfl, rfl⟩ s
  rintro v r ⟨hbnd, hthr⟩
  rw [boundedIteration_response, hbnd, hthr]
  simp [boundedAccepts]

/-- R123: the unit of FAST_BOUNDED, whatever `THR` and `PROD` hold. -/
theorem referenceFast_eq_drawUntil (u : SamplerRegs) {b : Word32} (hb : b ≠ 0) (s : State) :
    referenceFast u b s = (drawUntil (fastAccepts b) maxDraws s).map (Prod.map (productHigh b) id) := by
  refine runSampler_eq_drawUntil (Ready := fun v => v.bnd = b) ?_ (fun v r hv => (fastIteration_bnd v r).trans hv)
    maxDraws rfl s
  rintro v r rfl
  rw [fastIteration_response hb]
  by_cases hrej : productLow v.bnd r < thresh32 v.bnd <;> simp [fastAccepts, hrej]

end Sys2Proof.Machine
end

section
/-! SUPPORT. How many draws are accepted, and how many of them for each result (R113, R117). -/

namespace Sys2Proof.Machine

open Finset

/-- A property that holds exactly on an interval is met as often as the interval is long. -/
theorem count_eq_of_iff_mem_Ico {P : ℕ → Prop} [DecidablePred P] {m q N : ℕ} (hN : m + q ≤ N)
    (h : ∀ n < N, P n ↔ n ∈ Ico m (m + q)) : Nat.count P N = q := by
  have hset : {n ∈ range N | P n} = Ico m (m + q) := by
    ext n
    rw [mem_filter, mem_range]
    constructor
    · rintro ⟨hn, hPn⟩
      exact (h n hn).mp hPn
    · intro hmem
      have hn : n < N := (mem_Ico.mp hmem).2.trans_le hN
      exact ⟨hn, (h n hn).mpr hmem⟩
  rw [Nat.count_eq_card_filter_range, hset, Nat.card_Ico, Nat.add_sub_cancel_left]

theorem add_mul_ceilDiv {b : ℕ} (hb : 0 < b) (a q : ℕ) : (a + q * b) ⌈/⌉ b = a ⌈/⌉ b + q := by
  rw [Nat.ceilDiv_eq_add_pred_div, Nat.ceilDiv_eq_add_pred_div, ← Nat.add_mul_div_right _ _ hb]
  congr 1
  omega

/-- The multiples of `b` in an interval of `q` times its length are those of `q` numbers in a row. -/
theorem mul_mem_Ico_iff {b : ℕ} (hb : 0 < b) (a q n : ℕ) :
    n * b ∈ Ico a (a + q * b) ↔ n ∈ Ico (a ⌈/⌉ b) (a ⌈/⌉ b + q) := by
  have hle (x : ℕ) : x ⌈/⌉ b ≤ n ↔ x ≤ n * b := by rw [ceilDiv_le_iff_le_mul hb, mul_comm]
  rw [mem_Ico, mem_Ico, ← add_mul_ceilDiv hb, hle, lt_iff_lt_of_le_iff_le (hle _)]

/-- R113: `2^32` is the threshold and as many times the bound as it goes. -/
theorem thresh32_toNat_add {b : Word32} (hb : b ≠ 0) : (thresh32 b).toNat + 2 ^ 32 / b.toNat * b.toNat = 2 ^ 32 := by
  rw [thresh32_toNat hb, Nat.mul_comm, Nat.mod_add_div]

/-- R117: the first number whose product with `b` reaches `j` in its high half and `lo` in its low half. -/
def firstDraw (b j : Word32) (lo : ℕ) : ℕ := (j.toNat * 2 ^ 32 + lo) ⌈/⌉ b.toNat

/-- R117: the draws whose product with `b` has high half `j` and its low half in an interval of `q` times the bound are
`q` numbers in a row, from `firstDraw` on. -/
theorem halves_iff_mem_Ico {b j : Word32} (hb : b ≠ 0) {lo q : ℕ} (hhi : lo + q * b.toNat ≤ 2 ^ 32) (r : Word32) :
    productHigh b r = j ∧ (productLow b r).toNat ∈ Ico lo (lo + q * b.toNat) ↔
      r.toNat ∈ Ico (firstDraw b j lo) (firstDraw b j lo + q) := by
  rw [firstDraw, ← mul_mem_Ico_iff (toNat_pos_of_ne_zero hb), ← BitVec.toNat_inj, productHigh_toNat, productLow_toNat,
    mem_Ico, mem_Ico]
  omega

/-- R117: and all of these numbers are draws. -/
theorem firstDraw_add_le {b j : Word32} (hj : j < b) {lo q : ℕ} (hhi : lo + q * b.toNat ≤ 2 ^ 32) :
    firstDraw b j lo + q ≤ 2 ^ 32 := by
  have hpos : 0 < b.toNat := Nat.zero_lt_of_lt (BitVec.lt_def.mp hj)
  rw [firstDraw, ← add_mul_ceilDiv hpos, ceilDiv_le_iff_le_mul hpos]
  calc j.toNat * 2 ^ 32 + lo + q * b.toNat
      ≤ j.toNat * 2 ^ 32 + 2 ^ 32 := by rw [Nat.add_assoc]; exact Nat.add_le_add_left hhi _
    _ = (j.toNat + 1) * 2 ^ 32 := (Nat.succ_mul _ _).symm
    _ ≤ b.toNat * 2 ^ 32 := Nat.mul_le_mul_right _ (BitVec.lt_def.mp hj)

theorem fastAccepts_iff_mem_Ico (b r : Word32) :
    fastAccepts b r = true ↔ (productLow b r).toNat ∈ Ico (thresh32 b).toNat (2 ^ 32) := by
  rw [fastAccepts_iff, BitVec.not_lt, BitVec.le_def, mem_Ico]
  exact (and_iff_left (productLow b r).isLt).symm

/-- R117: the low halves from the threshold up are `floor(2^32 / bound)` times the bound, so the accepted draws with
result `j` are so many in a row. -/
theorem fastAccepts_ofNat_iff {b j : Word32} (hb : b ≠ 0) {n : ℕ} (hn : n < 2 ^ 32) :
    fastAccepts b (BitVec.ofNat 32 n) = true ∧ productHigh b (BitVec.ofNat 32 n) = j ↔
      n ∈ Ico (firstDraw b j (thresh32 b).toNat) (firstDraw b j (thresh32 b).toNat + 2 ^ 32 / b.toNat) := by
  have hhi := thresh32_toNat_add hb
  have hdraws := halves_iff_mem_Ico (j := j) hb hhi.le (BitVec.ofNat 32 n)
  rwa [hhi, ← fastAccepts_iff_mem_Ico, and_comm, BitVec.toNat_ofNat, Nat.mod_eq_of_lt hn] at hdraws

/-- R117: FAST_BOUNDED accepts as many draws for every result. -/
theorem acceptedCount_fast {b : Word32} (hb : b ≠ 0) {j : Word32} (hj : j < b) :
    acceptedCount (fastAccepts b) (productHigh b) j = 2 ^ 32 / b.toNat := by
  unfold acceptedCount
  exact count_eq_of_iff_mem_Ico (firstDraw_add_le hj (thresh32_toNat_add hb).le) fun n hn => fastAccepts_ofNat_iff hb hn

/-- R117: of the draws with result `j` exactly one has its low half below the bound: the interval is one bound long. -/
theorem existsUnique_productLow_lt {b : Word32} (hb : b ≠ 0) {j : Word32} (hj : j < b) :
    ∃! r : Word32, productHigh b r = j ∧ productLow b r < b := by
  have hhi : 0 + 1 * b.toNat ≤ 2 ^ 32 := by rw [Nat.one_mul, Nat.zero_add]; exact b.isLt.le
  have hdraw (r : Word32) : productHigh b r = j ∧ productLow b r < b ↔ r.toNat = firstDraw b j 0 := by
    have hlow : productLow b r < b ↔ (productLow b r).toNat ∈ Ico 0 (0 + 1 * b.toNat) := by simp [BitVec.lt_def]
    rw [hlow, halves_iff_mem_Ico hb hhi, Nat.Ico_succ_singleton, mem_singleton]
  have hlt : firstDraw b j 0 < 2 ^ 32 := Nat.lt_of_succ_le (firstDraw_add_le hj hhi)
  have hfirst : (BitVec.ofNat 32 (firstDraw b j 0)).toNat = firstDraw b j 0 := by
    rw [BitVec.toNat_ofNat, Nat.mod_eq_of_lt hlt]
  exact ⟨BitVec.ofNat 32 (firstDraw b j 0), (hdraw _).mpr hfirst, fun r hr =>
    BitVec.eq_of_toNat_eq (((hdraw r).mp hr).trans hfirst.symm)⟩

theorem boundedAccepts_ofNat_iff (t : Word32) {n : ℕ} (hn : n < 2 ^ 32) :
    boundedAccepts t (BitVec.ofNat 32 n) = true ↔ n ∈ Ico t.toNat (2 ^ 32) := by
  rw [boundedAccepts, decide_eq_true_eq, BitVec.le_def, BitVec.toNat_ofNat, Nat.mod_eq_of_lt hn, mem_Ico]
  exact (and_iff_left hn).symm

/-- R113: the accepted values are `t .. 2^32 - 1`. -/
theorem count_boundedAccepts (t : Word32) :
    Nat.count (fun n => boundedAccepts t (BitVec.ofNat 32 n) = true) (2 ^ 32) = 2 ^ 32 - t.toNat := by
  have hend : t.toNat + (2 ^ 32 - t.toNat) = 2 ^ 32 := Nat.add_sub_cancel' t.isLt.le
  refine count_eq_of_iff_mem_Ico hend.le fun n hn => ?_
  rw [hend, boundedAccepts_ofNat_iff t hn]

/-- Every residue occurs `q` times in `q * b` numbers in a row. -/
theorem card_residue_Ico {b j : ℕ} (hj : j < b) (a q : ℕ) : #{n ∈ Ico a (a + q * b) | n % b = j} = q := by
  have hb : 0 < b := Nat.zero_lt_of_lt hj
  have hper : Function.Periodic (fun n => n % b = j) (q * b) := fun n => by
    simp only [Nat.add_mul_mod_self_right]
  have hcount := Nat.count_modEq_card (q * b) hb j
  simp only [Nat.ModEq, Nat.mod_eq_of_lt hj, Nat.mul_mod_left, Nat.not_lt_zero, if_false, Nat.mul_div_cancel q hb,
    Nat.add_zero] at hcount
  rw [Nat.filter_Ico_card_eq_of_periodic _ _ _ hper, hcount]

/-- R113: each residue occurs equally often among the accepted draws, which are a multiple of the bound in a row. -/
theorem acceptedCount_bounded {b : Word32} (hb : b ≠ 0) {j : Word32} (hj : j < b) :
    acceptedCount (boundedAccepts (thresh32 b)) (· % b) j = 2 ^ 32 / b.toNat := by
  rw [acceptedCount, Nat.count_eq_card_filter_range,
    ← card_residue_Ico (BitVec.lt_def.mp hj) (thresh32 b).toNat (2 ^ 32 / b.toNat), thresh32_toNat_add hb]
  have hresidue (n : ℕ) (hn : n < 2 ^ 32) : BitVec.ofNat 32 n % b = j ↔ n % b.toNat = j.toNat := by
    rw [← BitVec.toNat_inj, BitVec.toNat_umod, BitVec.toNat_ofNat, Nat.mod_eq_of_lt hn]
  refine congrArg Finset.card (Finset.ext fun n => ?_)
  rw [mem_filter, mem_filter, mem_range]
  constructor
  · rintro ⟨hn, hacc, hres⟩
    exact ⟨(boundedAccepts_ofNat_iff _ hn).mp hacc, (hresidue n hn).mp hres⟩
  · rintro ⟨hmem, hres⟩
    have hn := (mem_Ico.mp hmem).2
    exact ⟨hn, (boundedAccepts_ofNat_iff _ hn).mpr hmem, (hresidue n hn).mpr hres⟩

end Sys2Proof.Machine
end

section
/-! PROOFS. The statements about the bounded commands (42_bounded.md). -/

namespace Sys2Proof.Machine

/-- Settles O22: on an odd stream BOUNDED completes, and then with its first draw not below the threshold. -/
theorem boundedAnswersFirstAcceptedDraw : Obligations.BoundedAnswersFirstAcceptedDraw := by
  intro b s hb hodd
  obtain ⟨t, ht⟩ := exec_completes (.bounded b) hodd
  obtain ⟨h0, -⟩ | ⟨-, k, hk, hbelow, hat, rfl⟩ := execBounded_next ht
  · exact absurd h0 hb
  · simp only [lt_thresh32_iff hb] at hbelow hat
    refine ⟨k, hk, hbelow, Nat.le_of_not_lt hat, ?_, (jump_ofNat _ _ _).symm⟩
    rw [ht, BitVec.umod_def]
    rfl

/-- Settles O23: on an odd stream FAST_BOUNDED completes, and then with its first product whose low half is not below the
threshold. -/
theorem fastBoundedAnswersFirstAcceptedProduct : Obligations.FastBoundedAnswersFirstAcceptedProduct := by
  intro b s hb hodd
  obtain ⟨t, ht⟩ := exec_completes (.fastBounded b) hodd
  obtain ⟨h0, -⟩ | ⟨-, k, hk, hbelow, hat, rfl⟩ := execFastBounded_next ht
  · exact absurd h0 hb
  · simp only [lt_thresh32_iff hb, productLow_toNat] at hbelow hat
    refine ⟨k, hk, hbelow, Nat.le_of_not_lt hat, ?_, (jump_ofNat _ _ _).symm⟩
    rw [ht, productHigh_eq_ofNat]
    rfl

/-- Settles O26: the products with one high half are an interval, in which the multiples of the bound are counted. -/
theorem fastBoundedIsUniformOverAcceptedDraws : Obligations.FastBoundedIsUniformOverAcceptedDraws :=
  fun _ hb _ hj => ⟨acceptedCount_fast hb hj, existsUnique_productLow_lt hb hj⟩

/-- Settles O37: every other command completes outright, and on an odd stream the bounded ones do too. -/
theorem faultOnlyWithEvenInc : Obligations.FaultOnlyWithEvenInc := by
  refine ⟨fun i s f hfault => ⟨fun hodd => ?odd, ?bounded⟩, exec_not_refused⟩
  case odd =>
    obtain ⟨t, ht⟩ := exec_completes i hodd
    rw [ht] at hfault
    cases hfault
  case bounded =>
    cases i with
    | init | seed | random | advance | retreat | reserved => cases hfault
    | bounded b =>
      refine ⟨b, ?_, .inl rfl⟩
      rintro rfl
      rw [exec_bounded_zero] at hfault
      cases hfault
    | fastBounded b =>
      refine ⟨b, ?_, .inr rfl⟩
      rintro rfl
      rw [exec_fastBounded_zero] at hfault
      cases hfault

/-- Settles O51: only a completing edge could stop, and with `INC` odd its command completes. -/
theorem theMachineNeverStops : Obligations.TheMachineNeverStops := by
  intro s h
  suffices hnext : ∃ t, step s = .next t by
    obtain ⟨t, ht⟩ := hnext
    exact ⟨t, ht, step_keeps_stateInv h ht⟩
  cases hr : s.pins.rst with
  | true => exact ⟨_, step_of_reset hr⟩
  | false =>
    cases hp : s.phase with
    | idle => exact ⟨_, step_of_idle hr hp⟩
    | resp => exact ⟨_, step_of_resp hr hp⟩
    | exec =>
      by_cases hl : s.latLeft ≤ 1
      · rw [step_of_completing hr hp hl]
        exact exec_completes (latched s) h.odd
      · exact ⟨_, step_of_progress hr hp (Nat.not_le.mp hl)⟩

/-- Settles O58: the unit runs the same rejection loop as the rule, and forms the same response of the draw it takes. -/
theorem samplerUnitComputesBounded : Obligations.SamplerUnitComputesBounded := by
  intro u b s hb
  rw [referenceBounded_eq_drawUntil, referenceFast_eq_drawUntil u hb, finishSampling_map, finishSampling_map]
  exact ⟨exec_bounded_of_ne_zero hb s, exec_fastBounded_of_ne_zero hb s⟩

/-- Settles O20: `2^32 - b` and `2^32` have the same remainder by `b`. -/
theorem thresholdIsPowerModBound : Obligations.ThresholdIsPowerModBound :=
  ⟨fun _ hb => ⟨thresh32_toNat_eq_sub_mod hb, thresh32_toNat hb, thresh32_lt hb⟩, fun _ => thresh32_twoPow,
    by decide, by decide, by decide, by decide, by decide, by decide⟩

/-- Settles O24: a remainder by the bound, or the high half of a draw's product with it, lies below the bound. -/
theorem boundedAnswersLieInRange : Obligations.BoundedAnswersLieInRange := by
  rintro b s t (h | h)
  · obtain ⟨rfl, rfl⟩ | ⟨hb, k, -, -, -, rfl⟩ := execBounded_next h
    · exact ⟨fun hb => absurd rfl hb, fun _ => rfl⟩
    · exact ⟨fun _ => Nat.mod_lt _ (toNat_pos_of_ne_zero hb), fun h0 => absurd h0 hb⟩
  · obtain ⟨rfl, rfl⟩ | ⟨hb, k, -, -, -, rfl⟩ := execFastBounded_next h
    · exact ⟨fun hb => absurd rfl hb, fun _ => rfl⟩
    · exact ⟨fun _ => productHigh_toNat_lt hb _, fun h0 => absurd h0 hb⟩

/-- Settles O25: the accepted draws are `floor(2^32 / bound)` times the bound in a row. -/
theorem boundedIsUniformOverAcceptedDraws : Obligations.BoundedIsUniformOverAcceptedDraws := by
  intro b hb
  refine ⟨?_, Nat.dvd_sub_mod _, fun j hj => acceptedCount_bounded hb hj⟩
  rw [count_boundedAccepts, thresh32_toNat hb]

/-- Settles O27: the threshold of a power of two is 0, so the first draw is accepted. -/
theorem powerOfTwoBoundsTakeOneDraw : Obligations.PowerOfTwoBoundsTakeOneDraw := by
  intro k s hk
  have hb := twoPow32_ne_zero hk
  have hnone (r : Word32) : ¬ r < thresh32 (1#32 <<< k) := by rw [thresh32_twoPow hk]; exact BitVec.not_lt_zero
  constructor
  · rw [exec_bounded_of_ne_zero hb, drawUntil_of_accepts (decide_eq_true (BitVec.not_lt.mp (hnone _))), finishSampling,
      draw_fst, umod_twoPow hk]
    rfl
  · rw [exec_fastBounded_of_ne_zero hb, drawUntil_of_accepts ((fastAccepts_iff _ _).mpr (hnone _)), finishSampling,
      draw_fst, productHigh_twoPow hk]
    rfl

/-- Settles O21: both commands test for a zero bound before any draw. -/
theorem zeroBoundMakesNoDraw : Obligations.ZeroBoundMakesNoDraw :=
  fun s => ⟨exec_bounded_zero s, exec_fastBounded_zero s⟩

end Sys2Proof.Machine
end

section
/-! SUPPORT. Jumps one after the other, and what the jump commands leave (R132, R135 to R141). -/

namespace Sys2Proof.Machine

/-! ### Jumps -/

@[simp] theorem jump_zero (s c : Word64) : jump s c 0#64 = s := jump_eq_lcgSteps s c 0#64

/-- R141: two jumps are one by the sum of their counts modulo 2^64. -/
theorem jump_jump (s c a b : Word64) : jump (jump s c a) c b = jump s c (a + b) := by
  rw [jump_eq_lcgSteps, jump_eq_lcgSteps, ← lcgSteps_add, ← jump_ofNat, BitVec.ofNat_add, BitVec.ofNat_toNat,
    BitVec.ofNat_toNat, BitVec.setWidth_eq, BitVec.setWidth_eq]

/-- R138: a jump by the negated count leads back. -/
theorem jump_jump_neg (s c d : Word64) : jump (jump s c d) c (-d) = s := by
  rw [jump_jump, BitVec.add_right_neg, jump_zero]

/-- R138: and so does the jump by the count after it. -/
theorem jump_neg_jump (s c d : Word64) : jump (jump s c (-d)) c d = s := by
  rw [jump_jump, BitVec.add_left_neg, jump_zero]

/-- R135: a jump by 2^64 - 1 is one step back. -/
theorem lcgStep_jump_neg_one (s c : Word64) : lcgStep (jump s c 0xffffffffffffffff#64) c = s := by
  rw [← jump_one]
  exact jump_neg_jump s c 1#64

/-- R135: 2^63 times an odd word is 2^63 modulo 2^64. -/
theorem two_pow_63_mul_of_odd {w : Word64} (hw : w.toNat % 2 = 1) :
    0x8000000000000000#64 * w = 0x8000000000000000#64 := by
  apply BitVec.eq_of_toNat_eq
  rw [BitVec.toNat_mul, BitVec.toNat_ofNat]
  omega

/-- R135: the closed form of the steps at 2^63, its sum read off one jump on the stream of 1. -/
theorem jump_two_pow_63_eq_add_mul (s c : Word64) :
    jump s c 0x8000000000000000#64 = s + 0x8000000000000000#64 * ((MULT - 1) * s + c) := by
  have hsum : jump 0#64 1#64 0x8000000000000000#64 = 0x8000000000000000#64 := by decide +kernel
  rw [jump_eq_lcgSteps, lcgSteps_eq_add_geom_sum] at hsum ⊢
  generalize (0x8000000000000000#64).toNat = n at hsum ⊢
  rw [← hsum]
  simp

/-- R135: on an odd stream a jump by 2^63 adds 2^63. -/
theorem jump_two_pow_63 (s : Word64) {c : Word64} (hc : c.getLsbD 0 = true) :
    jump s c 0x8000000000000000#64 = s + 0x8000000000000000#64 := by
  rw [jump_two_pow_63_eq_add_mul, two_pow_63_mul_of_odd (lcg_increment_odd s hc)]

/-! ### The jump commands -/

/-- R135: ADVANCE completes with the jump in `STATE`. -/
theorem exec_advance (delta : Word64) (s : State) :
    exec (.advance delta) s = .next (respond 0 .completed (loadState (jump s.state s.inc delta) s)) := rfl

/-- R137: RETREAT completes with the jump by the negated count, which is `2^64 - delta` by definition, in `STATE`. -/
theorem exec_retreat (delta : Word64) (s : State) :
    exec (.retreat delta) s = .next (respond 0 .completed (loadState (jump s.state s.inc (-delta)) s)) := rfl

/-- R121: `n` RANDOM commands step `STATE` `n` times and keep `INC`. -/
theorem serveAll_replicate_random (n : ℕ) (s : State) :
    ∃ t, serveAll (List.replicate n .random) s = .next t ∧ t.state = lcgSteps n s.state s.inc ∧ t.inc = s.inc := by
  induction n generalizing s with
  | zero => exact ⟨s, rfl, rfl, rfl⟩
  | succ n ih =>
    obtain ⟨t, hrun, hstate, hinc⟩ := ih (takeResponse (respond (perm s.state) .completed (draw s).2))
    rw [List.replicate_succ, serveAll_cons_of_exec _ (exec_random s)]
    exact ⟨t, hrun, hstate, hinc⟩

end Sys2Proof.Machine
end

section
/-! SUPPORT. The jump unit's registers after a number of iterations or cycles, as maps and counts (R132, R133). -/

namespace Sys2Proof.Machine

/-- R132: after `i` iterations the current power is the map applied `2^i` times. -/
theorem runFixed_curStep (i : ℕ) (u : JumpRegs) : (JumpRegs.runFixed i u).curStep = u.curStep^[2 ^ i] := by
  induction i generalizing u with
  | zero => rfl
  | succ i ih => rw [runFixed_succ, ih, iterate_curStep, ← Function.iterate_mul, pow_succ']

/-- R132: and the accumulated transform has taken in the map as often as the low `i` bits of the count say: iteration
`i` composes the `2^i`-th power onto it where bit `i` is set. -/
theorem runFixed_apply (i : ℕ) (u : JumpRegs) (s : Word64) :
    (JumpRegs.runFixed i u).apply s = u.curStep^[u.deltaRem.toNat % 2 ^ i] (u.apply s) := by
  induction i with
  | zero => simp [Nat.mod_one]
  | succ i ih =>
    have hbit : (JumpRegs.runFixed i u).deltaRem.getLsbD 0 = decide (u.deltaRem.toNat / 2 ^ i % 2 = 1) := by
      rw [runFixed_deltaRem, BitVec.getLsbD_ushiftRight, BitVec.getLsbD, Nat.add_zero, Nat.testBit_eq_decide_div_mod_eq]
    rw [runFixed_add, runFixed_succ, runFixed_zero, iterate_apply, hbit, runFixed_curStep, ih, Nat.mod_pow_succ]
    obtain h | h := Nat.mod_two_eq_zero_or_one (u.deltaRem.toNat / 2 ^ i)
    · simp [h]
    · simp [h, Nat.add_comm _ (2 ^ i), Function.iterate_add_apply]

/-- R131: the accumulated transform starts as the identity. -/
theorem load_apply (c d s : Word64) : (JumpRegs.load c d).apply s = s := by simp [JumpRegs.apply]

/-- R132: in a jump the current power is that of the LCG step. -/
theorem runFixed_load_curStep (i : ℕ) (s c d : Word64) :
    (JumpRegs.runFixed i (JumpRegs.load c d)).curStep s = lcgSteps (2 ^ i) s c := by
  rw [runFixed_curStep, lcgSteps_eq_iterate]
  rfl

/-- R132: and the accumulated transform makes as many steps as the low `i` bits of the count say. -/
theorem runFixed_load_apply (i : ℕ) (s c d : Word64) :
    (JumpRegs.runFixed i (JumpRegs.load c d)).apply s = lcgSteps (d.toNat % 2 ^ i) s c := by
  rw [runFixed_apply, load_apply, lcgSteps_eq_iterate]
  rfl

/-- R133: cycles of `bits` iterations are so many iterations. -/
theorem cycles_eq_run (bits n : ℕ) (u : JumpRegs) : JumpRegs.cycles bits n u = JumpRegs.run (bits * n) u := by
  induction n generalizing u with
  | zero => rfl
  | succ n ih => rw [JumpRegs.cycles, JumpRegs.cycle, ih, ← run_add, Nat.mul_succ, Nat.add_comm]

/-- R133: the count not yet consumed after `n` iterations of the unit, stopping early or not: 64 consume any. -/
theorem jumpUnitAfter_deltaRem (n : ℕ) (u : JumpRegs) : (jumpUnitAfter n u).deltaRem = u.deltaRem >>> n := by
  unfold jumpUnitAfter
  split
  · rw [runFixed_deltaRem]
    obtain hle | hle := Nat.le_total n 64
    · rw [Nat.min_eq_left hle]
    · rw [Nat.min_eq_right hle, BitVec.ushiftRight_eq_zero hle, BitVec.ushiftRight_eq_zero (Nat.le_refl 64)]
  · rw [run_deltaRem]

end Sys2Proof.Machine
end

section
/-! PROOFS. The statements about the jump unit, ADVANCE and RETREAT (43_jump.md). -/

namespace Sys2Proof.Machine

/-- Settles O28: the loop squares the current power and composes it by the binary digits of the count, and iterations
past the last digit only square. -/
theorem jumpIsIteratedStep : Obligations.JumpIsIteratedStep :=
  ⟨jump_eq_lcgSteps, fun s c => ⟨jump_zero s c, jump_one s c⟩,
    fun s c d i _ => ⟨runFixed_load_curStep i s c d, runFixed_load_apply i s c d⟩,
    fun s c d => run_runFixed_apply 64 0 (JumpRegs.load c d) s⟩

/-- Settles O31, by induction on the number of RANDOM commands: each makes one step, and the jump makes all of them. -/
theorem advanceEqualsThatManyRandoms : Obligations.AdvanceEqualsThatManyRandoms := by
  intro n s
  obtain ⟨t, hrun, hstate, hinc⟩ := serveAll_replicate_random n.toNat s
  exact ⟨t, _, hrun, exec_advance n s, hstate.trans (jump_eq_lcgSteps _ _ _).symm, hinc⟩

/-- Settles O32: the two counts add up to 0 modulo 2^64. -/
theorem retreatInvertsAdvance : Obligations.RetreatInvertsAdvance := fun d s =>
  ⟨⟨_, _, exec_advance d s, exec_retreat d _, jump_jump_neg _ _ d, rfl⟩,
    ⟨_, _, exec_retreat d s, exec_advance d _, jump_neg_jump _ _ d, rfl⟩⟩

/-- Settles O29: ADVANCE loads the jump and answers 0; the corner cases are those of the jump. -/
theorem advanceJumpsForward : Obligations.AdvanceJumpsForward :=
  ⟨exec_advance, fun _ => jump_zero _ _, fun _ => jump_one _ _, fun _ hodd => jump_two_pow_63 _ hodd,
    fun _ => lcgStep_jump_neg_one _ _, by decide⟩

/-- Settles O30: RETREAT loads the jump by the negated count and answers 0. The negations of 0 and 2^63 are they
themselves; that of 1 leads one step back, to a state that the step tells from every other. -/
theorem retreatJumpsByTheNegation : Obligations.RetreatJumpsByTheNegation := by
  have hback (s : State) : lcgStep (jump s.state s.inc (-1#64)) s.inc = s.state := lcgStep_jump_neg_one _ _
  refine ⟨exec_retreat, fun s => ⟨_, exec_retreat 0#64 s, jump_zero _ _⟩, fun s => ⟨_, exec_retreat 1#64 s, hback s⟩,
    fun s => rfl, fun s hs hc => ?seeded⟩
  case seeded =>
    have hstep : lcgStep (jump s.state s.inc (-1#64)) s.inc = lcgStep 0x97#64 s.inc := by
      rw [hback, hs, hc]
      decide
    have hstate : jump s.state s.inc (-1#64) = 0x97#64 := lcgStep_injective s.inc hstep
    exact ⟨_, exec_retreat 1#64 s, hstate, hstate.trans (by decide)⟩

/-- Settles O33: the counts add modulo 2^64. -/
theorem advancesCompose : Obligations.AdvancesCompose := fun a b s =>
  ⟨_, _, _, exec_advance a s, exec_advance b _, exec_advance (a + b) s, jump_jump _ _ a b, rfl⟩

/-- Settles O57: cycles are iterations, and both loops are long enough for the count, which each iteration halves. -/
theorem jumpUnitComputesJump : Obligations.JumpUnitComputesJump := by
  refine ⟨fun s c d bits n hd => ?_, fun s c d n => ⟨jumpUnitAfter_apply n s c d, jumpUnitAfter_deltaRem n _⟩⟩
  rw [cycles_eq_run, run_deltaRem, load_deltaRem]
  constructor
  · exact (run_apply hd s).trans (run_apply d.isLt s).symm
  · apply BitVec.eq_of_toNat_eq
    rw [BitVec.toNat_ushiftRight, Nat.shiftRight_eq_zero _ _ hd]
    rfl

end Sys2Proof.Machine
end

section
/-! SUPPORT. The response a completed command holds (R151, R152, R179). -/

namespace Sys2Proof.Machine

/-- R179: a command that completes leaves the block in RESP. -/
theorem exec_phase {i : Instr} {s t : State} (h : exec i s = .next t) : t.phase = .resp := by
  rw [exec_next h]

/-- R151: the reserved opcode completes with the error response and writes nothing else. -/
theorem exec_reserved (s : State) :
    exec .reserved s = .next { s with rspData := 0, rspErr := true, phase := .resp } := rfl

/-- R152: a response with the error bit carries data 0, since the reserved opcode is the one that sets it. -/
theorem exec_rspData_of_rspErr {i : Instr} {s t : State} (h : exec i s = .next t) (herr : t.rspErr = true) :
    t.rspData = 0 := by
  obtain rfl : i = .reserved := (exec_rspErr_iff h).mp herr
  exact (exec_of_reserved h).1

/-- R152: no defined command reports an error. -/
theorem exec_rspErr_of_ne_reserved {i : Instr} {s t : State} (h : exec i s = .next t) (hi : i ≠ .reserved) :
    t.rspErr = false :=
  Bool.eq_false_iff.mpr fun herr => hi ((exec_rspErr_iff h).mp herr)

end Sys2Proof.Machine
end

section
/-! PROOFS. The statements about errors and completion (60_exceptions.md). -/

namespace Sys2Proof.Machine

/-- Settles O36: an odd stream gives every output within its period, so also the largest, which every bounded command
accepts; the response is then the ordinary one of a completed command. -/
theorem everyCommandCompletes : Obligations.EveryCommandCompletes := by
  intro i s hodd
  obtain ⟨t, ht⟩ := exec_completes i hodd
  exact ⟨t, ht, exec_phase ht, exec_rspErr_of_ne_reserved ht⟩

/-- Settles O35: every command answers with the status of its opcode, and the reserved one answers 0. -/
theorem errorBitIsReservedOpcodeOnly : Obligations.ErrorBitIsReservedOpcodeOnly :=
  fun _ _ _ h => ⟨exec_rspErr_iff h, exec_rspData_of_rspErr h⟩

/-- Settles O34: the error response is a fixed one, so a second reserved command writes what the first one left. -/
theorem reservedOpcodeAnswersError : Obligations.ReservedOpcodeAnswersError :=
  fun a b s => ⟨_, rfl, decodeFields_7 a b, exec_reserved s, exec_reserved _⟩

end Sys2Proof.Machine
end

section
/-! SUPPORT. The block over edges at which nothing of it moves but the host's inputs: edges of reset and edges that hold
a response (R170, R172, R181), and what such edges do not read (R28, R184). -/

namespace Sys2Proof.Machine

/-- A property of the next samples holds of those in the present cycle. The inputs are quiet past the list's end (log 1). -/
theorem pins_of_forall_take {P : Pins → Prop} {n : Nat} {s : State} (h : ∀ p ∈ s.script.take (n + 1), P p)
    (hend : s.script ≠ [] ∨ P Pins.quiet) : P s.pins := by
  cases hs : s.script with
  | nil => rw [pins_nil s hs]; simpa [hs] using hend
  | cons p rest => rw [pins_cons s p rest hs]; exact h p (by simp [hs])

/-- And of the samples that follow. -/
theorem forall_take_tail {P : Pins → Prop} {n : Nat} {l : List Pins} (h : ∀ p ∈ l.take (n + 1), P p) :
    ∀ p ∈ l.tail.take n, P p := by
  cases l with
  | nil => simp
  | cons p rest => exact fun q hq => h q (List.mem_cons_of_mem p hq)

/-- `n` edges past, seen from the host's side alone. -/
theorem iterate_tick (n : Nat) (s : State) :
    tick^[n] s = { s with script := s.script.drop n, cycle := s.cycle + n } := by
  induction n with
  | zero => rfl
  | succ n ih => rw [Function.iterate_succ_apply', ih, tick, List.tail_drop, Nat.add_assoc]

/-- R172: a reset edge leaves nothing of the block that an earlier one left. -/
theorem resetEdge_iterate_tick (n : Nat) (s : State) :
    resetEdge (tick^[n] (resetEdge s)) = resetEdge (tick^[n] s) := by
  rw [iterate_tick, iterate_tick]
  rfl

/-- R172: edges of reset leave what one leaves. -/
theorem runEdges_reset {n : Nat} {s : State} (hlen : n + 1 ≤ s.script.length)
    (h : ∀ p ∈ s.script.take (n + 1), p.rst = true) :
    runEdges (n + 1) s = .next (resetEdge (tick^[n + 1] s)) := by
  induction n generalizing s with
  | zero =>
    exact runEdges_succ (step_of_reset (pins_of_forall_take h (.inl (List.ne_nil_of_length_pos hlen))))
  | succ n ih =>
    have hstep := step_of_reset (pins_of_forall_take h (.inl (List.ne_nil_of_length_pos (by omega))))
    have hrest := ih (s := resetEdge (tick s)) (by simp; omega) (forall_take_tail h)
    rw [runEdges_succ hstep, hrest, resetEdge_iterate_tick, ← Function.iterate_succ_apply]

/-- R181: an edge in RESP without `rsp_ready` holds everything. -/
theorem step_of_untaken {s : State} (hp : s.phase = .resp) (h : s.pins.rst = false ∧ s.pins.rspReady = false) :
    step s = .next (tick s) := by
  obtain ⟨hr, hready⟩ := h
  rw [step_of_resp hr hp, respEdge, if_neg (by simp [hready])]

/-- R180: an edge in RESP with `rsp_ready` transfers the response. -/
theorem step_of_taken {s : State} (hp : s.phase = .resp) (hr : s.pins.rst = false) (hready : s.pins.rspReady = true) :
    step s = .next (takeResponse (tick s)) := by
  rw [step_of_resp hr hp, respEdge, if_pos hready]

/-- R178: an idle edge without an offer changes nothing. -/
theorem step_of_no_offer {s : State} (hp : s.phase = .idle) (hr : s.pins.rst = false)
    (hv : s.pins.cmdValid = false) : step s = .next (tick s) := by
  rw [step_of_idle hr hp, idleEdge, if_neg (by simp [hv])]

/-- R181: edges in RESP without `rsp_ready` hold everything and accept nothing. -/
theorem runEdges_untaken {n : Nat} {s : State} (hp : s.phase = .resp)
    (h : ∀ p ∈ s.script.take n, p.rst = false ∧ p.rspReady = false) :
    runEdges n s = .next (tick^[n] s) ∧ acceptedAlong n s = [] := by
  induction n generalizing s with
  | zero => exact ⟨rfl, rfl⟩
  | succ n ih =>
    have hstep := step_of_untaken hp (pins_of_forall_take h (.inr ⟨rfl, rfl⟩))
    obtain ⟨hrun, hacc⟩ := ih (s := tick s) hp (forall_take_tail h)
    rw [runEdges_succ hstep, acceptedAlong_succ hstep, acceptedNow_of_not_idle (by simp [hp]), hacc]
    exact ⟨hrun, rfl⟩

/-- R28, R176, R184: an edge that accepts nothing reads of the inputs no more than `rst` and `rsp_ready`. -/
theorem step_of_not_accepting {s s' : State} (htick : tick s' = tick s) (hrst : s'.pins.rst = s.pins.rst)
    (hready : s'.pins.rspReady = s.pins.rspReady)
    (hidle : s.phase = .idle → s.pins.cmdValid = false ∧ s'.pins.cmdValid = false) : step s' = step s := by
  have hphase : s'.phase = s.phase := by rw [← tick_phase s', htick, tick_phase]
  unfold step clockEdge
  rw [hrst, hphase, htick]
  cases hp : s.phase with
  | idle =>
    obtain ⟨hv, hv'⟩ := hidle hp
    simp only [idleEdge, hv, hv', Bool.false_eq_true, if_false]
  | exec => rfl
  | resp => simp only [respEdge, hready]

theorem tick_withOffer {s : State} {p : Pins} {rest : List Pins} (h : s.script = p :: rest) (valid : Bool)
    (op : Opcode) (a b : Word64) : tick (withOffer p rest valid op a b s) = tick s := by
  simp [tick, withOffer, h]

end Sys2Proof.Machine
end

section
/-! SUPPORT. The rows of the reference timing for a jump (R133, R188): the least number of cycles that consume the
count. -/

namespace Sys2Proof.Machine

theorem jumpBitsPerCycle_pos : 0 < Config.jumpBitsPerCycle := Nat.succ_pos _

/-- R188: `ceil(n / j)` is the least number of cycles of `j` iterations that make `n`. -/
theorem ceilDiv_le_iff {j : Nat} (hj : 0 < j) (n c : Nat) : ceilDiv n j ≤ c ↔ n ≤ j * c := by
  rw [ceilDiv, ← Nat.ceilDiv_eq_add_pred_div, ceilDiv_le_iff_le_mul hj]

theorem lt_ceilDiv_iff {j : Nat} (hj : 0 < j) (n m : Nat) : m < ceilDiv n j ↔ j * m < n :=
  lt_iff_lt_of_le_iff_le (ceilDiv_le_iff hj n m)

/-- R188: the bit length is the least number of bits that hold the count. -/
theorem bitLength_le_iff (d : Word64) (n : Nat) : bitLength d ≤ n ↔ d.toNat < 2 ^ n := by
  unfold bitLength
  split
  case isTrue h => simp [h]
  case isFalse h => rw [Nat.succ_le_iff, Nat.log2_lt fun h0 => h (BitVec.eq_of_toNat_eq h0)]

theorem bitLength_eq {d : Word64} {n : Nat} (hlt : d.toNat < 2 ^ n) (hge : n = 0 ∨ 2 ^ (n - 1) ≤ d.toNat) :
    bitLength d = n := by
  have hle := (bitLength_le_iff d n).mpr hlt
  obtain rfl | hge := hge
  · exact Nat.le_zero.mp hle
  · have hnot : ¬ bitLength d ≤ n - 1 := fun h => Nat.not_lt.mpr hge ((bitLength_le_iff d _).mp h)
    omega

/-- R133: as many iterations as the count has bits consume it, and no fewer. -/
theorem jumpUnitAfter_consumed_iff (n : Nat) (c d : Word64) :
    (jumpUnitAfter n (JumpRegs.load c d)).deltaRem = 0#64 ↔ bitLength d ≤ n := by
  rw [jumpUnitAfter_deltaRem, load_deltaRem, bitLength_le_iff, ← BitVec.toNat_inj, BitVec.toNat_ushiftRight,
    Nat.shiftRight_eq_div_pow, BitVec.toNat_ofNat, Nat.zero_mod, Nat.div_eq_zero_iff]
  simp

/-- R188: ADVANCE and RETREAT have the row of the jump count they use, which for RETREAT is the negation of R137. -/
theorem referenceLatency_of_jump (k : Nat) (needs : Bool) {i : Instr} {d : Word64}
    (h : i = .advance d ∨ ∃ e : Word64, i = .retreat e ∧ d = BitVec.ofNat 64 (2 ^ 64 - e.toNat)) :
    referenceLatency k needs i = referenceJumpLatency d := by
  obtain rfl | ⟨e, rfl, rfl⟩ := h <;> rfl

end Sys2Proof.Machine
end

section
/-! PROOFS. The statements about reset, edges and hazards (70_reset_and_hazards.md). -/

namespace Sys2Proof.Machine

/-- Settles O40: a reset edge is taken before the phase is looked at. -/
theorem resetWinsAtAnEdge : Obligations.ResetWinsAtAnEdge :=
  fun _ h => ⟨_, step_of_reset h, rfl, rfl, rfl, rfl, rfl, rfl, rfl⟩

/-- Settles O41: `n` reset edges leave what one leaves, which is an idle block with the defaults. -/
theorem holdingResetRepeatsIt : Obligations.HoldingResetRepeatsIt := by
  refine ⟨fun s h => ⟨?_, ?_⟩, fun n s hn hlen h => ?_⟩
  · simp [outputs, cmdReady, h]
  · simp [outputs, rspValid, h]
  · obtain ⟨k, rfl⟩ := Nat.exists_eq_add_of_le' hn
    refine ⟨_, runEdges_reset hlen h, rfl, rfl, rfl, by simp [iterate_tick], by simp [iterate_tick], fun hr => ?_⟩
    obtain ⟨hready, -, hreadback, -⟩ := outputsShowPhaseAndRegisters.1 (resetEdge (tick^[k + 1] s))
    obtain ⟨hstate, hinc⟩ := hreadback (by simp) hr
    exact ⟨hready.mpr ⟨rfl, hr⟩, rfl, hstate, hinc⟩

/-- Settles O42, by whether the host offers a command. -/
theorem idleEdgeAcceptsAnOffer : Obligations.IdleEdgeAcceptsAnOffer :=
  fun _ hp hr => ⟨fun hv => step_of_accepts ⟨hp, hr, hv⟩, fun hv => step_of_no_offer hp hr hv⟩

/-- Settles O43, by whether the host is ready. -/
theorem respEdgeTransfersOrHolds : Obligations.RespEdgeTransfersOrHolds :=
  fun _ hp hr => ⟨fun hready => step_of_taken hp hr hready, fun hready => step_of_untaken hp ⟨hr, hready⟩⟩

/-- Settles O44, by whether the edge is the completing one; neither kind writes anything but the units and the count. -/
theorem stepRunsTheLatchedCommand : Obligations.StepRunsTheLatchedCommand := by
  intro s hp hr
  refine ⟨step_of_completing hr hp, step_of_progress hr hp, ?_⟩
  rintro t (rfl | rfl) <;> exact ⟨rfl, rfl, rfl, hp, rfl, rfl, rfl, rfl, rfl, rfl, rfl⟩

/-- Settles O47: an edge that accepts nothing does not read the offer, and the next cycle has inputs of its own. -/
theorem unacceptedOffersAreForgotten : Obligations.UnacceptedOffersAreForgotten := by
  intro s p rest valid op a b hs
  have hpins := pins_cons s p rest hs
  refine ⟨fun hp => ?_, fun hv => ?_⟩
  · exact step_of_not_accepting (tick_withOffer hs valid op a b) (by rw [hpins]; rfl) (by rw [hpins]; rfl)
      fun hidle => absurd hidle hp
  · exact step_of_not_accepting (tick_withOffer hs false op a b) (by rw [hpins]; rfl) (by rw [hpins]; rfl)
      fun _ => ⟨by rw [hpins, hv], rfl⟩

/-- Settles O54, by induction on the edges: each holds everything but the host's inputs. -/
theorem untakenResponseIsHeldForEver : Obligations.UntakenResponseIsHeldForEver := by
  intro n s hp h
  obtain ⟨hrun, hacc⟩ := runEdges_untaken hp h
  rw [iterate_tick] at hrun
  exact ⟨_, hrun, hp, rfl, rfl, rfl, rfl, rfl, hacc, fun hr => (rspValid_iff _).mpr ⟨hp, hr⟩⟩

/-- Settles O55: the block is in EXEC after edges 1 to `LAT`, in RESP after the next, and a transfer leaves it idle. -/
theorem acceptancesAreSpaced : Obligations.AcceptancesAreSpaced := by
  intro s ha hodd hr
  obtain ⟨u, hexec⟩ := exec_completes (offered s) hodd
  obtain ⟨m, -, hrun⟩ := runEdges_completes ha (noReset_of_le hr (by omega)) hexec
  rw [Nat.add_comm 1] at hrun
  refine ⟨fun k hk hle => ?_, _, hrun, rfl, fun hready => ?_⟩
  · obtain hlt | rfl := Nat.lt_or_eq_of_le hle
    · obtain ⟨j, rfl⟩ := Nat.exists_eq_add_of_le' hk
      obtain ⟨t, ht, hway⟩ := runEdges_underWay ha (Nat.lt_of_succ_lt_succ hlt) (noReset_of_le hr (by omega))
      exact ⟨t, ht, acceptedNow_of_not_idle (by simp [hway.phase])⟩
    · exact ⟨_, hrun, acceptedNow_of_not_idle nofun⟩
  · have hrst := rst_of_noReset (n := 0) (noReset_runEdges (noReset_of_le hr (by omega)) hrun)
    refine ⟨_, (runEdges_succ_last hrun).trans (step_of_taken rfl hrst hready), rfl, fun hr' hv => ?_⟩
    exact acceptedNow_of_accepts ⟨rfl, hr', hv⟩

/-- Settles O59: the rows stand in the table; a jump's cycles are the least that make as many iterations as the count has
bits, and so many iterations consume it. -/
theorem referenceLatencyFollowsTheTable : Obligations.ReferenceLatencyFollowsTheTable := by
  have hj := jumpBitsPerCycle_pos
  refine ⟨fun k needs a q => ⟨rfl, rfl, rfl, rfl, rfl, rfl⟩, fun k b hb => ?nonzero, fun k needs i d hi => ?jump⟩
  case nonzero => exact ⟨fun _ => if_neg hb, if_neg hb, if_neg hb⟩
  case jump =>
    rw [referenceLatency_of_jump k needs hi, referenceJumpLatency]
    constructor
    · intro hall n hlt hge
      obtain rfl := bitLength_eq hlt hge
      refine ⟨ceilDiv (bitLength d) Config.jumpBitsPerCycle, by simp [hall], (ceilDiv_le_iff hj _ _).mp le_rfl,
        fun m => (lt_ceilDiv_iff hj _ m).mp, fun m c => ?_⟩
      rw [jumpUnitAfter_consumed_iff, ceilDiv_le_iff hj]
    · intro hall
      exact ⟨ceilDiv 64 Config.jumpBitsPerCycle, by simp [hall], (ceilDiv_le_iff hj _ _).mp le_rfl,
        fun m => (lt_ceilDiv_iff hj _ m).mp⟩

end Sys2Proof.Machine
end
